-- ==== Sys2Proof/Word.lean ====
section
/-! DEFINITION. The Word and the byte (00_scope.md R10, R13). -/

namespace Sys2Proof

/-- A 16-bit unit of storage or register value; `+` on it is addition modulo 2^16 (R10, R13). -/
abbrev Word := BitVec 16

/-- A character of the console, or a trap vector (R8, R10). -/
abbrev Byte := BitVec 8

end Sys2Proof
end

