-- ==== Sys2Proof/Machine/Bits.lean ====
section
/-! DEFINITION. Bit fields, extensions and the packing of two bytes in a Word (00_scope.md R12, R14;
20_memory.md R49). -/

namespace Sys2Proof

/-- `sext_N(v)`: the N-bit two's-complement value `v[N-1:0]` widened to a Word (00_scope.md R14). -/
def sext (n : Nat) (v : Word) : Word := (v.extractLsb' 0 n).signExtend 16

/-- `zext_16(b)`: a byte as a Word with bits 15:8 zero (R14). -/
def zext (b : Byte) : Word := b.zeroExtend 16

/-- `sext_8` of a byte (R14), the SIGN reading of `P_IN_EXT` (43_trap.md R125). -/
def sextByte (b : Byte) : Word := b.signExtend 16

/-- `v[7:0]`: the character a Word holds (20_memory.md R49). -/
def lowByte (v : Word) : Byte := v.extractLsb' 0 8

/-- `v[15:8]` (43_trap.md R126). -/
def highByte (v : Word) : Byte := v.extractLsb' 8 8

/-- `hi :: lo` (R13; the image file's byte order, 70_reset_and_hazards.md R182). -/
def wordOfBytes (hi lo : Byte) : Word := hi ++ lo

end Sys2Proof
end

