-- ==== Sys2Proof/Syntax.lean ====
section
/-! DEFINITION. Registers and instructions (30_encoding.md R67, R75; one constructor for each row of
spec/opcode_table.json). -/

namespace Sys2Proof

/-- A general register, R0 to R7 (10_state.md R20). -/
inductive Reg where
  | r0
  | r1
  | r2
  | r3
  | r4
  | r5
  | r6
  | r7
deriving DecidableEq, Repr, Inhabited

/-- The decoded instruction (R67). Immediates and offsets are Words, already sign-extended. The last
seven constructors are the table's alias rows, each one word of JMP or TRAP under its own name
(R75; notes/assumptions/13.md). -/
inductive Instr where
  | addReg (dr sr1 sr2 : Reg)
  | addImm (dr sr1 : Reg) (imm : Word)
  | andReg (dr sr1 sr2 : Reg)
  | andImm (dr sr1 : Reg) (imm : Word)
  | not (dr sr : Reg)
  | br (n z p : Bool) (off : Word)
  | jmp (base : Reg)
  | jsr (off : Word)
  | jsrr (base : Reg)
  | ld (dr : Reg) (off : Word)
  | ldi (dr : Reg) (off : Word)
  | ldr (dr base : Reg) (off : Word)
  | lea (dr : Reg) (off : Word)
  | st (sr : Reg) (off : Word)
  | sti (sr : Reg) (off : Word)
  | str (sr base : Reg) (off : Word)
  | trap (vect : Byte)
  | reserved1000 (ir : Word)
  | reserved1101 (ir : Word)
  | ret
  | getc
  | out
  | puts
  | inp
  | putsp
  | halt
deriving DecidableEq, Repr

/-- The core instruction an alias stands for (R75); every other instruction stands for itself. -/
def Instr.core : Instr → Instr
  | .addReg dr sr1 sr2 => .addReg dr sr1 sr2
  | .addImm dr sr1 imm => .addImm dr sr1 imm
  | .andReg dr sr1 sr2 => .andReg dr sr1 sr2
  | .andImm dr sr1 imm => .andImm dr sr1 imm
  | .not dr sr => .not dr sr
  | .br n z p off => .br n z p off
  | .jmp base => .jmp base
  | .jsr off => .jsr off
  | .jsrr base => .jsrr base
  | .ld dr off => .ld dr off
  | .ldi dr off => .ldi dr off
  | .ldr dr base off => .ldr dr base off
  | .lea dr off => .lea dr off
  | .st sr off => .st sr off
  | .sti sr off => .sti sr off
  | .str sr base off => .str sr base off
  | .trap vect => .trap vect
  | .reserved1000 ir => .reserved1000 ir
  | .reserved1101 ir => .reserved1101 ir
  | .ret => .jmp .r7
  | .getc => .trap 0x20
  | .out => .trap 0x21
  | .puts => .trap 0x22
  | .inp => .trap 0x23
  | .putsp => .trap 0x24
  | .halt => .trap 0x25

end Sys2Proof
end

