-- ==== Sys2Proof/Decode.lean ====
section
/-! DEFINITION. The decoder, total on every word (30_encoding.md R60, R67), and the encoder. -/

namespace Sys2Proof

/-- The register a 3-bit index selects, R0 by 000 up to R7 by 111 (10_state.md R20). -/
def Reg.ofBits (b : BitVec 3) : Reg :=
  match b.getLsbD 2, b.getLsbD 1, b.getLsbD 0 with
  | false, false, false => .r0
  | false, false, true => .r1
  | false, true, false => .r2
  | false, true, true => .r3
  | true, false, false => .r4
  | true, false, true => .r5
  | true, true, false => .r6
  | true, true, true => .r7

/-- The 3-bit index of a register (10_state.md R20). -/
def Reg.bits : Reg → BitVec 3
  | .r0 => 0b000
  | .r1 => 0b001
  | .r2 => 0b010
  | .r3 => 0b011
  | .r4 => 0b100
  | .r5 => 0b101
  | .r6 => 0b110
  | .r7 => 0b111

/-- DR, or the SR of a store: bits 11:9 (R62). -/
def fieldDR (ir : Word) : Reg := .ofBits (ir.extractLsb' 9 3)

/-- SR1, NOT's SR, or BaseR: bits 8:6 (R62). -/
def fieldSR1 (ir : Word) : Reg := .ofBits (ir.extractLsb' 6 3)

/-- SR2: bits 2:0 (R62). -/
def fieldSR2 (ir : Word) : Reg := .ofBits (ir.extractLsb' 0 3)

/-- JMP, with its alias row RET (R75). -/
def decodeJmp (base : Reg) : Instr := if base = .r7 then .ret else .jmp base

/-- TRAP, with its six alias rows (R72, R75). Every other vector stays a `trap`. -/
def decodeTrap (vect : Byte) : Instr :=
  if vect = 0x20 then .getc
  else if vect = 0x21 then .out
  else if vect = 0x22 then .puts
  else if vect = 0x23 then .inp
  else if vect = 0x24 then .putsp
  else if vect = 0x25 then .halt
  else .trap vect

/-- `DEC.decode(ir)` (R60, R67, opcode map R66): sixteen arms, one per value of `ir[15:12]`, and no
default arm. Bits no arm reads are ignored (R68). -/
def decode (ir : Word) : Instr :=
  match ir.getLsbD 15, ir.getLsbD 14, ir.getLsbD 13, ir.getLsbD 12 with
  | false, false, false, false =>
    .br (ir.getLsbD 11) (ir.getLsbD 10) (ir.getLsbD 9) (sext 9 ir)
  | false, false, false, true =>
    if ir.getLsbD 5 then .addImm (fieldDR ir) (fieldSR1 ir) (sext 5 ir)
    else .addReg (fieldDR ir) (fieldSR1 ir) (fieldSR2 ir)
  | false, false, true, false => .ld (fieldDR ir) (sext 9 ir)
  | false, false, true, true => .st (fieldDR ir) (sext 9 ir)
  | false, true, false, false =>
    if ir.getLsbD 11 then .jsr (sext 11 ir) else .jsrr (fieldSR1 ir)
  | false, true, false, true =>
    if ir.getLsbD 5 then .andImm (fieldDR ir) (fieldSR1 ir) (sext 5 ir)
    else .andReg (fieldDR ir) (fieldSR1 ir) (fieldSR2 ir)
  | false, true, true, false => .ldr (fieldDR ir) (fieldSR1 ir) (sext 6 ir)
  | false, true, true, true => .str (fieldDR ir) (fieldSR1 ir) (sext 6 ir)
  | true, false, false, false => .reserved1000 ir
  | true, false, false, true => .not (fieldDR ir) (fieldSR1 ir)
  | true, false, true, false => .ldi (fieldDR ir) (sext 9 ir)
  | true, false, true, true => .sti (fieldDR ir) (sext 9 ir)
  | true, true, false, false => decodeJmp (fieldSR1 ir)
  | true, true, false, true => .reserved1101 ir
  | true, true, true, false => .lea (fieldDR ir) (sext 9 ir)
  | true, true, true, true => decodeTrap (lowByte ir)

/-- A field's bits in place: bit 0 of the field at bit `lo` of the Word (R62). -/
def place {n : Nat} (lo : Nat) (v : BitVec n) : Word := v.setWidth 16 <<< lo

/-- Format OPR: `oooo ddd sss 0 xx ttt` (R63), the ignored bits 0 (R68). -/
def encodeOPR (op : BitVec 4) (d s t : Reg) : Word :=
  place 12 op ||| place 9 d.bits ||| place 6 s.bits ||| place 0 t.bits

/-- Format OPI: `oooo ddd sss 1 iiiii` (R63). -/
def encodeOPI (op : BitVec 4) (d s : Reg) (imm : Word) : Word :=
  place 12 op ||| place 9 d.bits ||| place 6 s.bits ||| place 5 1#1 ||| place 0 (imm.extractLsb' 0 5)

/-- Format PC9: `oooo ddd ooooooooo` (R63). -/
def encodePC9 (op : BitVec 4) (d : Reg) (off : Word) : Word :=
  place 12 op ||| place 9 d.bits ||| place 0 (off.extractLsb' 0 9)

/-- Format BASE6, and the formats NOT, JMP and JSRR with their own bits around `sss` (R63). -/
def encodeBASE6 (op : BitVec 4) (d : BitVec 3) (s : Reg) (low : BitVec 6) : Word :=
  place 12 op ||| place 9 d ||| place 6 s.bits ||| place 0 low

/-- Format BR: `0000 n z p ooooooooo` (R63). -/
def encodeBR (n z p : Bool) (off : Word) : Word :=
  place 11 (BitVec.ofBool n) ||| place 10 (BitVec.ofBool z) ||| place 9 (BitVec.ofBool p) |||
    place 0 (off.extractLsb' 0 9)

/-- Format JSR: `0100 1 ooooooooooo` (R63). -/
def encodeJSR (off : Word) : Word := place 11 0b01001#5 ||| place 0 (off.extractLsb' 0 11)

/-- Format TRAP: `1111 xxxx vvvvvvvv` (R63), the ignored bits 0 (R68). -/
def encodeTRAP (vect : Byte) : Word := place 12 0b1111#4 ||| place 0 vect

/-- Format RES: the opcode, and the word's own bits 11:0 (R63, R67). -/
def encodeRES (op : BitVec 4) (ir : Word) : Word := place 12 op ||| place 0 (ir.extractLsb' 0 12)

/-- The word of an instruction (formats R63, opcode map R66). Ignored bits get the values of R68's
table: 111111 in NOT, 0 elsewhere (notes/assumptions/17.md). -/
def encode : Instr → Word
  | .addReg dr sr1 sr2 => encodeOPR 0b0001 dr sr1 sr2
  | .addImm dr sr1 imm => encodeOPI 0b0001 dr sr1 imm
  | .andReg dr sr1 sr2 => encodeOPR 0b0101 dr sr1 sr2
  | .andImm dr sr1 imm => encodeOPI 0b0101 dr sr1 imm
  | .not dr sr => encodeBASE6 0b1001 dr.bits sr 0b111111
  | .br n z p off => encodeBR n z p off
  | .jmp base => encodeBASE6 0b1100 0b000 base 0b000000
  | .jsr off => encodeJSR off
  | .jsrr base => encodeBASE6 0b0100 0b000 base 0b000000
  | .ld dr off => encodePC9 0b0010 dr off
  | .ldi dr off => encodePC9 0b1010 dr off
  | .ldr dr base off => encodeBASE6 0b0110 dr.bits base (off.extractLsb' 0 6)
  | .lea dr off => encodePC9 0b1110 dr off
  | .st sr off => encodePC9 0b0011 sr off
  | .sti sr off => encodePC9 0b1011 sr off
  | .str sr base off => encodeBASE6 0b0111 sr.bits base (off.extractLsb' 0 6)
  | .trap vect => encodeTRAP vect
  | .reserved1000 ir => encodeRES 0b1000 ir
  | .reserved1101 ir => encodeRES 0b1101 ir
  | .ret => 0xC1C0
  | .getc => 0xF020
  | .out => 0xF021
  | .puts => 0xF022
  | .inp => 0xF023
  | .putsp => 0xF024
  | .halt => 0xF025

/-- The mask and the match value of an instruction's row of the opcode table (30_encoding.md R63, R66,
R75): a word belongs to the row if its bits under the mask are the match value. The row of RET lists
only its canonical word. -/
def tableRow : Instr → Word × Word
  | .addReg _ _ _ => (0xF020, 0x1000)
  | .addImm _ _ _ => (0xF020, 0x1020)
  | .andReg _ _ _ => (0xF020, 0x5000)
  | .andImm _ _ _ => (0xF020, 0x5020)
  | .not _ _ => (0xF000, 0x9000)
  | .br _ _ _ _ => (0xF000, 0x0000)
  | .jmp _ => (0xF000, 0xC000)
  | .jsr _ => (0xF800, 0x4800)
  | .jsrr _ => (0xF800, 0x4000)
  | .ld _ _ => (0xF000, 0x2000)
  | .ldi _ _ => (0xF000, 0xA000)
  | .ldr _ _ _ => (0xF000, 0x6000)
  | .lea _ _ => (0xF000, 0xE000)
  | .st _ _ => (0xF000, 0x3000)
  | .sti _ _ => (0xF000, 0xB000)
  | .str _ _ _ => (0xF000, 0x7000)
  | .trap _ => (0xF000, 0xF000)
  | .reserved1000 _ => (0xF000, 0x8000)
  | .reserved1101 _ => (0xF000, 0xD000)
  | .ret => (0xFFFF, 0xC1C0)
  | .getc => (0xF0FF, 0xF020)
  | .out => (0xF0FF, 0xF021)
  | .puts => (0xF0FF, 0xF022)
  | .inp => (0xF0FF, 0xF023)
  | .putsp => (0xF0FF, 0xF024)
  | .halt => (0xF0FF, 0xF025)

/-- The bits of a word that the decoder does not read (30_encoding.md R68). A reserved word keeps all
its bits, because its fault records them (R67, R69). -/
def ignoredBits : Instr → Word
  | .addReg _ _ _ => 0x0018
  | .addImm _ _ _ => 0
  | .andReg _ _ _ => 0x0018
  | .andImm _ _ _ => 0
  | .not _ _ => 0x003F
  | .br _ _ _ _ => 0
  | .jmp _ => 0x0E3F
  | .jsr _ => 0
  | .jsrr _ => 0x063F
  | .ld _ _ => 0
  | .ldi _ _ => 0
  | .ldr _ _ _ => 0
  | .lea _ _ => 0
  | .st _ _ => 0
  | .sti _ _ => 0
  | .str _ _ _ => 0
  | .trap _ => 0x0F00
  | .reserved1000 _ => 0
  | .reserved1101 _ => 0
  | .ret => 0x0E3F
  | .getc => 0x0F00
  | .out => 0x0F00
  | .puts => 0x0F00
  | .inp => 0x0F00
  | .putsp => 0x0F00
  | .halt => 0x0F00

/-- The instruction the decoder reads from a row's bits as the opcode table numbers them. Every
instruction is one 16-bit Word (R61), so bit 0 of the table is bit 0 of the Word, and a row of more
than 16 bits does not exist. -/
def decodeTableWord (nbits w : Nat) : Option Instr :=
  if nbits ≤ 16 then some (decode (BitVec.ofNat 16 (w % 2 ^ nbits))) else none

end Sys2Proof
end

