-- ==== Sys2Proof/Config.lean ====
section
/-! DEFINITION. The parameters of the block (00_scope.md R11) and the free values. -/

namespace Sys2Proof

/-- The condition code: one of three mutually exclusive flags, or none of them, which only reset can
leave (10_state.md R25, R29). -/
inductive Cond where
  | none
  | n
  | z
  | p
deriving DecidableEq, Repr, Inhabited

/-- `P_TRAP_LINK`: does TRAP save the PC in R7? OPEN (92_eei_decisions.md D10). -/
inductive TrapLink where
  | none
  | savePC
deriving DecidableEq, Repr, Inhabited

/-- `P_IN_EXT`: how IN widens its byte. OPEN (92_eei_decisions.md D12). -/
inductive InExt where
  | zero
  | sign
deriving DecidableEq, Repr, Inhabited

/-- The nine named parameters of 00_scope.md R11. They are plain data that no step writes, so a claim
about every state is a claim for every value of each of them (notes/assumptions/4.md). -/
structure Params where
  /-- `P_KBSR`, the keyboard-status address. -/
  kbsr : Word
  /-- `P_KBDR`, the keyboard-data address. -/
  kbdr : Word
  /-- `P_PC_START`, the fixed entry address. -/
  pcStart : Word
  /-- `P_COND_RESET`, the condition code at reset. -/
  condReset : Cond
  /-- `P_TRAP_LINK`. -/
  trapLink : TrapLink
  /-- `P_TRAP_SETS_CC`: do GETC and IN set COND from R0? -/
  trapSetsCC : Bool
  /-- `P_IN_EXT`. -/
  inExt : InExt
  /-- `P_HALT_NOTICE`, the bytes HALT writes. -/
  haltNotice : List Byte
  /-- `P_IN_PROMPT`, the bytes IN writes before it reads. -/
  inPrompt : List Byte
deriving DecidableEq, Repr

/-- What the host does between two steps (00_scope.md R9, 60_exceptions.md R163; notes/assumptions/12.md). -/
inductive HostEvent where
  /-- It lets the block run its next instruction. -/
  | proceed
  /-- It delivers the next byte of the input sequence (10_state.md R34). -/
  | deliver (b : Byte)
  /-- It aborts the run (R163). -/
  | abort
deriving DecidableEq, Repr, Inhabited

namespace Config

/-- OPEN (R11, D10): no value is known. -/
opaque trapLink : TrapLink
/-- OPEN (R11, D11): no value is known. -/
opaque trapSetsCC : Bool
/-- OPEN (R11, D12): no value is known. -/
opaque inExt : InExt
/-- OPEN (R11, D13): no value is known. -/
opaque haltNotice : List Byte
/-- OPEN (R11, D14): no value is known. -/
opaque inPrompt : List Byte

/-- Free value: the host's answer to the n-th `key_available` call that the answers listed in the state
do not cover (10_state.md R33, "the model admits either value at every call"; notes/assumptions/7.md). -/
opaque keyAvailable : Nat → Bool

/-- Free value: the n-th act of a host that acts without end, after its acts listed in the state
(10_state.md R33, R34, 60_exceptions.md R163, R164; notes/assumptions/12.md). -/
opaque hostAct : Nat → HostEvent

/-- The parameters at reset: the defaults of R11, and an unknown value for each OPEN one
(notes/assumptions/2.md, 3.md, 4.md). -/
def params : Params where
  kbsr := 0xFE00
  kbdr := 0xFE02
  pcStart := 0x3000
  condReset := .none
  trapLink := trapLink
  trapSetsCC := trapSetsCC
  inExt := inExt
  haltNotice := haltNotice
  inPrompt := inPrompt

end Config

end Sys2Proof
end

