-- ==== Sys2Proof/Machine/State.lean ====
section
/-! DEFINITION. The state of the block (10_state.md), how a step can stop, and reset. -/

namespace Sys2Proof.Machine

/-- The general registers R0 to R7 (10_state.md R20). -/
structure Regs where
  r0 : Word
  r1 : Word
  r2 : Word
  r3 : Word
  r4 : Word
  r5 : Word
  r6 : Word
  r7 : Word
deriving DecidableEq, Repr

/-- The Word Store (10_state.md R36) as a list of (address, Word) pairs, the addresses strictly rising
and no listed Word equal to what an unlisted address reads as (notes/assumptions/5.md). -/
abbrev Memory := List (Nat × Word)

/-- The reason of a fault, with the info it records: the closed set of 60_exceptions.md R161. -/
inductive StopReason where
  /-- Code 1: opcode 1000 or 1101 was executed; the instruction word. -/
  | reservedOpcode (ir : Word)
  /-- Code 2: TRAP with a vector outside 0x20 to 0x25; the vector. -/
  | unknownTrap (vect : Byte)
  /-- Code 3: PUTS or PUTSP read address `P_KBSR`; the address. -/
  | trapDeviceRead (addr : Word)
  /-- Code 4: a decode outside the sixteen arms; the instruction word. Unreachable (30_encoding.md R73). -/
  | internal (ir : Word)
deriving DecidableEq, Repr

/-- The run state (10_state.md R35). -/
inductive RunState where
  | running
  | halted
  | faulted (reason : StopReason)
  | aborted
deriving DecidableEq, Repr

/-- One entry of the output sequence (10_state.md R33): a byte passed to `write_char`, or a `flush`. -/
inductive OutEvent where
  | byte (b : Byte)
  | flush
deriving DecidableEq, Repr

/-- What the host does once its listed acts are used up (notes/assumptions/12.md). -/
inductive HostAfter where
  /-- It lets the block run on and does nothing else. -/
  | runsOn
  /-- It goes on acting without end, its act number `n` being the free value `Config.hostAct n`: an input
  sequence without end (10_state.md R33) and an abort at any later time are among these. -/
  | free (n : Nat)
deriving DecidableEq, Repr

/-- The complete state of the block (10_state.md R38), the Device Adapter as the block sees it (R33), the
parameters (00_scope.md R11), and the model's own fields `drawCount`, `inPrompted`,
`hostEvents` and `hostAfter`.
KBSR and KBDR are cells of `mem` (R31, R32). -/
structure State where
  /-- R0 to R7 (R20). -/
  regs : Regs
  /-- The program counter (R22). -/
  pc : Word
  /-- COND (R25). -/
  cond : Cond
  /-- The Word Store (R36). -/
  mem : Memory
  /-- The console output, oldest first (R33). -/
  out : List OutEvent
  /-- The input bytes the host has delivered and no call has consumed, next first (R33, R34). -/
  input : List Byte
  /-- The host's next answers to `key_available` (R33). -/
  draws : List Bool
  /-- Model's own: which free value answers when `draws` is used up (notes/assumptions/7.md). -/
  drawCount : Nat
  /-- Model's own: IN has written its prompt and its read still waits (43_trap.md R125;
  notes/assumptions/10.md). -/
  inPrompted : Bool
  /-- The run state (R35). -/
  run : RunState
  /-- Model's own: what the host does before the next steps, soonest first (notes/assumptions/12.md). -/
  hostEvents : List HostEvent
  /-- Model's own: what the host does when `hostEvents` is used up (10_state.md R33, R34;
  notes/assumptions/12.md). -/
  hostAfter : HostAfter
  /-- The parameters of 00_scope.md R11; no step writes them. -/
  params : Params
deriving DecidableEq, Repr

/-- Why a step has no next state: the run has ended (10_state.md R35, "Only RUNNING has a next step").
Raised by `step` alone; safe, since the hardware makes no step there either. -/
inductive Fault where
  /-- The run state is HALTED. Raised by `step`; safe. -/
  | halted
  /-- The run state is FAULTED (60_exceptions.md R160, "A faulted state has no next step"). Raised by
  `step`; safe. -/
  | faulted (reason : StopReason)
  /-- The run state is ABORTED (R163). Raised by `step`; safe. -/
  | aborted
deriving DecidableEq, Repr

/-- Why the model has no meaning to offer. No arm of `exec` answers one. -/
inductive Refusal where
  /-- The instruction has no meaning in the model yet. Raised by `exec`'s refused arms, of which there
  are none; safe. -/
  | notModelled (mnemonic : String)
deriving DecidableEq, Repr

/-- Every general register 0 (10_state.md R20, 70_reset_and_hazards.md R181). -/
def Regs.zero : Regs := ⟨0, 0, 0, 0, 0, 0, 0, 0⟩

/-- The state after reset of a block with parameters `p` and nothing loaded (10_state.md R38,
70_reset_and_hazards.md R180, R181). The host's side (`input`, `draws`, `hostEvents`) starts empty,
and the host lets the block run on (notes/assumptions/19.md). -/
def State.resetWith (p : Params) : State where
  regs := Regs.zero
  pc := p.pcStart
  cond := p.condReset
  mem := []
  out := []
  input := []
  draws := []
  drawCount := 0
  inPrompted := false
  run := .running
  hostEvents := []
  hostAfter := .runsOn
  params := p

/-- The machine right after reset, with the parameters of `Config.params`. -/
def State.reset : State := State.resetWith Config.params

end Sys2Proof.Machine
end

