-- ==== Sys2Proof/Machine/Ops.lean ====
section
/-! DEFINITION. The operations over registers, the Word Store, the Device Adapter and the run state that
every meaning is written with. -/

namespace Sys2Proof.Machine

/-! ### Registers (10_state.md R20; 00_scope.md R15) -/

/-- `x[r]`. -/
def Regs.get (g : Regs) : Reg → Word
  | .r0 => g.r0
  | .r1 => g.r1
  | .r2 => g.r2
  | .r3 => g.r3
  | .r4 => g.r4
  | .r5 => g.r5
  | .r6 => g.r6
  | .r7 => g.r7

/-- `x[r] <- v`. No register is hardwired (R20). -/
def Regs.set (g : Regs) (r : Reg) (v : Word) : Regs :=
  match r with
  | .r0 => { g with r0 := v }
  | .r1 => { g with r1 := v }
  | .r2 => { g with r2 := v }
  | .r3 => { g with r3 := v }
  | .r4 => { g with r4 := v }
  | .r5 => { g with r5 := v }
  | .r6 => { g with r6 := v }
  | .r7 => { g with r7 := v }

/-- `RF.read` (00_scope.md R7). -/
def State.reg (s : State) (r : Reg) : Word := s.regs.get r

/-- `RF.write` (R7). -/
def State.setReg (s : State) (r : Reg) (v : Word) : State := { s with regs := s.regs.set r v }

/-- `pc <- target` (R15). -/
def State.setPc (s : State) (target : Word) : State := { s with pc := target }

/-! ### The Word Store (10_state.md R36; 70_reset_and_hazards.md R180) -/

/-- What a cell reads as that nothing has written: 0 (R180). -/
def Memory.unlisted : Word := 0

/-- `M[a]`, the stored content of cell `a`. -/
def Memory.read : Memory → Nat → Word
  | [], _ => Memory.unlisted
  | (k, v) :: m, a => if k = a then v else Memory.read m a

/-- `M[a] <- v`, in the canonical form: a cell that gets the unlisted value is not listed. -/
def Memory.write : Memory → Nat → Word → Memory
  | [], a, v => if v = Memory.unlisted then [] else [(a, v)]
  | (k, w) :: m, a, v =>
    if a < k then (if v = Memory.unlisted then (k, w) :: m else (a, v) :: (k, w) :: m)
    else if a = k then (if v = Memory.unlisted then m else (a, v) :: m)
    else (k, w) :: Memory.write m a v

/-- The canonical form: addresses strictly rising and below 65,536, no listed cell with the unlisted
value. -/
abbrev Memory.wf (m : Memory) : Prop :=
  (m.map Prod.fst).Pairwise (· < ·) ∧ ∀ c ∈ m, c.1 < 65536 ∧ c.2 ≠ Memory.unlisted

/-- `M[a]` of a state, the raw cell with no device side effect (00_scope.md R15). -/
def State.cell (s : State) (a : Word) : Word := Memory.read s.mem a.toNat

/-- `MemWrite(a, 1, v)`: plain storage at every address, `P_KBSR` and `P_KBDR` included
(20_memory.md R44). -/
def State.memWrite (s : State) (a : Word) (v : Word) : State :=
  { s with mem := Memory.write s.mem a.toNat v }

/-! ### The Device Adapter (00_scope.md R8; 10_state.md R33, R34) -/

/-- The answer of a `key_available` call: the host's listed answer, else a free value
(R33; notes/assumptions/7.md). -/
def State.keyAnswer (s : State) : Bool :=
  match s.draws with
  | b :: _ => b
  | [] => Config.keyAvailable s.drawCount

/-- A `key_available` call uses up its draw; each call makes a fresh one (20_memory.md R43). -/
def State.drawn (s : State) : State :=
  { s with
    draws := s.draws.tail
    drawCount := match s.draws with
      | _ :: _ => s.drawCount
      | [] => s.drawCount + 1 }

/-- The input that is left, after a byte of it has been consumed. -/
def State.withInput (s : State) (bs : List Byte) : State := { s with input := bs }

/-- `read_char_blocking()`: the next input byte, consumed, or `none` where the call holds (R34). -/
def State.readChar (s : State) : Option (Byte × State) :=
  match s.input with
  | c :: cs => some (c, s.withInput cs)
  | [] => none

/-- `write_char` of each byte in order (00_scope.md R15 `emit`). -/
def State.emit (s : State) (bs : List Byte) : State := { s with out := s.out ++ bs.map .byte }

/-- `flush()` (R15 `emitflush`): an event that changes no byte (92_eei_decisions.md D20). -/
def State.emitFlush (s : State) : State := { s with out := s.out ++ [.flush] }

/-! ### The read path (20_memory.md R40) and the trap routines' read (R59) -/

/-- The poll that a read of `P_KBSR` makes (R40). `none` where its `read_char_blocking` holds. -/
def State.poll (s : State) : Option State :=
  if s.keyAnswer then
    match s.drawn.readChar with
    | some (c, t) => some ((t.memWrite t.params.kbsr 0x8000).memWrite t.params.kbdr (zext c))
    | none => none
  else some (s.drawn.memWrite s.params.kbsr 0x0000)

/-- `MemRead(a, 1)`: the Word read and the state after the read's side effect (R40), or `none` where the
read holds. -/
def State.memRead (s : State) (a : Word) : Option (Word × State) :=
  if a = s.params.kbsr then
    match s.poll with
    | some t => some (t.cell a, t)
    | none => none
  else some (s.cell a, s)

/-- `fetch` (R46): the instruction word through the read path, and PC incremented modulo 2^16. -/
def State.fetch (s : State) : Option (Word × State) :=
  match s.memRead s.pc with
  | some (ir, t) => some (ir, t.setPc (t.pc + 1))
  | none => none

/-! ### Faults, holds and the host -/

/-- `raise Fault(reason, info)` (60_exceptions.md R160): sets the run state and writes nothing else. The
caller abandons the rest of the instruction; its earlier effects are in `s`. There is no return from
it (R162, R166). -/
def State.raiseFault (s : State) (reason : StopReason) : State := { s with run := .faulted reason }

/-- The step holds on input (10_state.md R34): the instruction whose execute phase began in `s` has not
happened, so PC is back at its address and nothing else has changed (20_memory.md R47;
notes/assumptions/9.md). -/
def State.hold (s : State) : State := s.setPc (s.pc - 1)

/-- An instruction ends: in the state it reached, or held in the state it began in. -/
def State.finish (s : State) (r : Option State) : Host.Outcome State Fault Refusal :=
  match r with
  | some t => .next t
  | none => .next s.hold

/-- TRAP's optional link (43_trap.md R120): R7 receives PC if `P_TRAP_LINK` is SAVE_PC. -/
def State.trapLink (s : State) : State :=
  { s with
    regs := match s.params.trapLink with
      | .savePC => s.regs.set .r7 s.pc
      | .none => s.regs }

/-- What the host does once one of its acts after the listed ones is used up. -/
def HostAfter.rest : HostAfter → HostAfter
  | .runsOn => .runsOn
  | .free n => .free (n + 1)

/-- The host's next act: a listed one, else what `hostAfter` says (notes/assumptions/12.md). -/
def State.nextAct (s : State) : HostEvent :=
  match s.hostEvents with
  | e :: _ => e
  | [] =>
    match s.hostAfter with
    | .runsOn => .proceed
    | .free n => Config.hostAct n

/-- The host's next act is used up; nothing else changes. -/
def State.acted (s : State) : State :=
  { s with
    hostEvents := s.hostEvents.tail
    hostAfter := match s.hostEvents with
      | _ :: _ => s.hostAfter
      | [] => s.hostAfter.rest }

/-- The host aborts the run between two steps (60_exceptions.md R163). -/
def State.hostAbort (s : State) : State := { s with run := .aborted }

/-- The host delivers the next byte of the input sequence (10_state.md R33, R34). -/
def State.hostDeliver (s : State) (b : Byte) : State := s.withInput (s.input ++ [b])

end Sys2Proof.Machine
end

