-- ==== Sys2Proof/Machine/Flags.lean ====
section
/-! DEFINITION. The condition code (10_state.md R25 to R28). -/

namespace Sys2Proof.Machine

/-- The flag of a Word (R26): Z if it is 0, N if its high bit is set, P otherwise. -/
def condOf (v : Word) : Cond :=
  if v = 0x0000 then .z else if v.getLsbD 15 then .n else .p

/-- `cond = n :: z :: p` (R25, 92_eei_decisions.md D23). -/
def condBits : Cond → BitVec 3
  | .n => 0b100
  | .z => 0b010
  | .p => 0b001
  | .none => 0b000

/-- BR's test (41_control.md R90): any requested flag is the current one. -/
def condTaken (n z p : Bool) : Cond → Bool
  | .n => n
  | .z => z
  | .p => p
  | .none => false

/-- `setcc(v)` (R26). -/
def State.setcc (s : State) (v : Word) : State := { s with cond := condOf v }

/-- `x[r] <- v` and then `setcc(x[r])`: the end of every flag-setting instruction
(40_operate.md R80). -/
def State.setRegFlag (s : State) (r : Reg) (v : Word) : State :=
  (s.setReg r v).setcc ((s.setReg r v).reg r)

/-- `if P_TRAP_SETS_CC: setcc(x[0])`, for GETC and IN (43_trap.md R129). -/
def State.trapSetcc (s : State) : State :=
  { s with cond := if s.params.trapSetsCC then condOf (s.reg .r0) else s.cond }

end Sys2Proof.Machine
end

