-- ==== Sys2Proof/Machine/Operands.lean ====
section
/-! DEFINITION. Effective addresses and the shared forms of loads and stores (42_load_store.md R107). -/

namespace Sys2Proof.Machine

/-- PC-relative: `pc + off`, from the PC of the execute phase (R107, 00_scope.md R16). -/
def State.pcRel (s : State) (off : Word) : Word := s.pc + off

/-- Base plus offset: `x[base] + off` (R107). -/
def State.baseOff (s : State) (base : Reg) (off : Word) : Word := s.reg base + off

/-- `x[dr] <- MemRead(ea, 1)` and `setcc(x[dr])`; `none` where the read holds (R100, R102). -/
def State.loadFrom (s : State) (dr : Reg) (ea : Word) : Option State :=
  match s.memRead ea with
  | some (v, t) => some (t.setRegFlag dr v)
  | none => none

/-- LDI: a first read gives the pointer, a second the data (R101). -/
def State.loadIndirect (s : State) (dr : Reg) (pa : Word) : Option State :=
  match s.memRead pa with
  | some (ea, t) => t.loadFrom dr ea
  | none => none

/-- `MemWrite(ea, 1, x[sr])` (R104, R106). -/
def State.storeTo (s : State) (sr : Reg) (ea : Word) : State := s.memWrite ea (s.reg sr)

/-- STI: the pointer is read through the read path, then the store is plain (R105). -/
def State.storeIndirect (s : State) (sr : Reg) (pa : Word) : Option State :=
  match s.memRead pa with
  | some (ea, t) => some (t.storeTo sr ea)
  | none => none

end Sys2Proof.Machine
end

