-- ==== Sys2Proof/Machine/Control.lean ====
section
/-! DEFINITION. BR, JMP, RET, JSR, JSRR (41_control.md). -/

namespace Sys2Proof.Machine

/-- R90. -/
def execBr (n z p : Bool) (off : Word) (s : State) : Host.Outcome State Fault Refusal :=
  .next (if condTaken n z p s.cond then s.setPc (s.pcRel off) else s)

/-- R91. -/
def execJmp (base : Reg) (s : State) : Host.Outcome State Fault Refusal :=
  .next (s.setPc (s.reg base))

/-- R91 with BaseR = R7 (30_encoding.md R75). -/
def execRet (s : State) : Host.Outcome State Fault Refusal :=
  .next (s.setPc (s.reg .r7))

/-- `x[7] <- pc`, the first act of JSR and JSRR (R92, R93). -/
def State.link (s : State) : State := s.setReg .r7 s.pc

/-- R92. -/
def execJsr (off : Word) (s : State) : Host.Outcome State Fault Refusal :=
  .next (s.link.setPc (s.link.pcRel off))

/-- R93: BaseR is read after R7 is written (90_conflicts.md C6). -/
def execJsrr (base : Reg) (s : State) : Host.Outcome State Fault Refusal :=
  .next (s.link.setPc (s.link.reg base))

end Sys2Proof.Machine
end

