-- ==== Sys2Proof/Machine/LoadStore.lean ====
section
/-! DEFINITION. LD, LDI, LDR, LEA, ST, STI, STR (42_load_store.md). -/

namespace Sys2Proof.Machine

/-- R100. -/
def execLd (dr : Reg) (off : Word) (s : State) : Host.Outcome State Fault Refusal :=
  s.finish (s.loadFrom dr (s.pcRel off))

/-- R101. -/
def execLdi (dr : Reg) (off : Word) (s : State) : Host.Outcome State Fault Refusal :=
  s.finish (s.loadIndirect dr (s.pcRel off))

/-- R102. -/
def execLdr (dr base : Reg) (off : Word) (s : State) : Host.Outcome State Fault Refusal :=
  s.finish (s.loadFrom dr (s.baseOff base off))

/-- R103: no memory read. -/
def execLea (dr : Reg) (off : Word) (s : State) : Host.Outcome State Fault Refusal :=
  .next (s.setRegFlag dr (s.pcRel off))

/-- R104. -/
def execSt (sr : Reg) (off : Word) (s : State) : Host.Outcome State Fault Refusal :=
  .next (s.storeTo sr (s.pcRel off))

/-- R105. -/
def execSti (sr : Reg) (off : Word) (s : State) : Host.Outcome State Fault Refusal :=
  s.finish (s.storeIndirect sr (s.pcRel off))

/-- R106. -/
def execStr (sr base : Reg) (off : Word) (s : State) : Host.Outcome State Fault Refusal :=
  .next (s.storeTo sr (s.baseOff base off))

end Sys2Proof.Machine
end

