-- ==== Sys2Proof/Machine/Operate.lean ====
section
/-! DEFINITION. ADD, AND, NOT (40_operate.md). -/

namespace Sys2Proof.Machine

/-- R81. -/
def execAddReg (dr sr1 sr2 : Reg) (s : State) : Host.Outcome State Fault Refusal :=
  .next (s.setRegFlag dr (s.reg sr1 + s.reg sr2))

/-- R82. -/
def execAddImm (dr sr1 : Reg) (imm : Word) (s : State) : Host.Outcome State Fault Refusal :=
  .next (s.setRegFlag dr (s.reg sr1 + imm))

/-- R83. -/
def execAndReg (dr sr1 sr2 : Reg) (s : State) : Host.Outcome State Fault Refusal :=
  .next (s.setRegFlag dr (s.reg sr1 &&& s.reg sr2))

/-- R84. -/
def execAndImm (dr sr1 : Reg) (imm : Word) (s : State) : Host.Outcome State Fault Refusal :=
  .next (s.setRegFlag dr (s.reg sr1 &&& imm))

/-- R85. -/
def execNot (dr sr : Reg) (s : State) : Host.Outcome State Fault Refusal :=
  .next (s.setRegFlag dr (~~~(s.reg sr)))

end Sys2Proof.Machine
end

