-- ==== Sys2Proof/Machine/Reserved.lean ====
section
/-! DEFINITION. The two reserved opcodes (44_reserved.md). -/

namespace Sys2Proof.Machine

/-- R150. -/
def execReserved1000 (ir : Word) (s : State) : Host.Outcome State Fault Refusal :=
  .next (s.raiseFault (.reservedOpcode ir))

/-- R151. -/
def execReserved1101 (ir : Word) (s : State) : Host.Outcome State Fault Refusal :=
  .next (s.raiseFault (.reservedOpcode ir))

end Sys2Proof.Machine
end

