-- ==== Sys2Proof/Machine/Trap.lean ====
section
/-! DEFINITION. TRAP and the trap routine sequencer (43_trap.md). Each routine runs to completion inside
the step (R130). -/

namespace Sys2Proof.Machine

/-! ### The string scan of PUTS and PUTSP (R124, R126) -/

/-- What a string scan wrote, and whether it ended at `P_KBSR` (the fault) or at a zero Word. -/
structure ScanResult where
  bytes : List Byte
  atDevice : Bool
deriving DecidableEq, Repr

/-- The characters PUTS writes for one Word (R124). -/
def putsChars (w : Word) : List Byte := [lowByte w]

/-- The characters PUTSP writes for one Word: the low byte always, then the high byte if non-zero (R126). -/
def putspChars (w : Word) : List Byte :=
  if highByte w = 0x00 then [lowByte w] else [lowByte w, highByte w]

/-- The scan loop over `TrapRead` (20_memory.md R59) from the address `dist` Words below `P_KBSR`: at
distance 0 the address is `P_KBSR` and the read faults, so the recursion ends there at the latest
(notes/assumptions/18.md). -/
def scanLoop (chars : Word → List Byte) (m : Memory) : Nat → Word → ScanResult
  | 0, _ => ⟨[], true⟩
  | dist + 1, a =>
    let w := Memory.read m a.toNat
    if w = 0x0000 then ⟨[], false⟩
    else
      let rest := scanLoop chars m dist (a + 1)
      ⟨chars w ++ rest.bytes, rest.atDevice⟩

/-- The scan of the string at R0; the pointer is a copy of R0 and wraps modulo 2^16. -/
def State.scan (s : State) (chars : Word → List Byte) : ScanResult :=
  scanLoop chars s.mem (s.params.kbsr - s.reg .r0).toNat (s.reg .r0)

/-- The string's bytes go out; then the flush, or the fault with those bytes kept (R124, R126,
60_exceptions.md R160). -/
def State.putString (s : State) (chars : Word → List Byte) : State :=
  if (s.scan chars).atDevice then
    (s.emit (s.scan chars).bytes).raiseFault (.trapDeviceRead s.params.kbsr)
  else (s.emit (s.scan chars).bytes).emitFlush

/-! ### The routines -/

/-- GETC (R122); `none` where its read holds. -/
def State.runGetc (s : State) : Option State :=
  match s.readChar with
  | some (c, t) => some (t.setReg .r0 (zext c)).trapSetcc
  | none => none

/-- OUT (R123). -/
def State.runOut (s : State) : State := (s.emit [lowByte (s.reg .r0)]).emitFlush

/-- PUTS (R124). -/
def State.runPuts (s : State) : State := s.putString putsChars

/-- PUTSP (R126). -/
def State.runPutsp (s : State) : State := s.putString putspChars

/-- IN writes its prompt, once for each time it runs: a held IN that goes on has already written it (R125;
notes/assumptions/10.md). -/
def State.prompted (s : State) : State :=
  { s with
    out := if s.inPrompted then s.out else s.out ++ s.params.inPrompt.map .byte ++ [.flush] }

/-- How IN widens its byte (R125, `P_IN_EXT`). -/
def inWord (e : InExt) (c : Byte) : Word :=
  match e with
  | .zero => zext c
  | .sign => sextByte c

/-- IN has ended: no written prompt is left without its read. -/
def State.promptDone (s : State) : State := { s with inPrompted := false }

/-- IN after its prompt (R125): read, echo, flush, R0, flags; `none` where its read holds. -/
def State.runIn (s : State) : Option State :=
  match s.readChar with
  | some (c, t) =>
    some ((t.emit [c]).emitFlush.setReg .r0 (inWord t.params.inExt c)).trapSetcc.promptDone
  | none => none

/-- IN holds: as every hold, but its prompt has been written and stays written (R125). -/
def State.holdIn (s : State) : State := { s.hold with out := s.prompted.out, inPrompted := true }

/-- HALT (R127). -/
def State.runHalt (s : State) : State :=
  { (s.emit s.params.haltNotice).emitFlush with run := .halted }

/-! ### The vector table (R121), each routine with TRAP's link before it (R120) -/

/-- The six routines (R121). -/
inductive TrapRoutine where
  | getc
  | out
  | puts
  | inp
  | putsp
  | halt
deriving DecidableEq, Repr

/-- The trap vector table (R121). -/
def trapTable (vect : Byte) : Option TrapRoutine :=
  if vect = 0x20 then some .getc
  else if vect = 0x21 then some .out
  else if vect = 0x22 then some .puts
  else if vect = 0x23 then some .inp
  else if vect = 0x24 then some .putsp
  else if vect = 0x25 then some .halt
  else none

/-- The link of R120 and then the routine. -/
def runRoutine (r : TrapRoutine) (s : State) : Host.Outcome State Fault Refusal :=
  match r with
  | .getc => s.finish s.trapLink.runGetc
  | .out => .next s.trapLink.runOut
  | .puts => .next s.trapLink.runPuts
  | .inp =>
    match s.trapLink.prompted.runIn with
    | some t => .next t
    | none => .next s.holdIn
  | .putsp => .next s.trapLink.runPutsp
  | .halt => .next s.trapLink.runHalt

/-- TRAP (R120, R121, R128): an unknown vector faults after the link. -/
def execTrap (vect : Byte) (s : State) : Host.Outcome State Fault Refusal :=
  match trapTable vect with
  | some r => runRoutine r s
  | none => .next (s.trapLink.raiseFault (.unknownTrap vect))

/-- TRAP x20 (R122). -/
def execGetc (s : State) : Host.Outcome State Fault Refusal := runRoutine .getc s

/-- TRAP x21 (R123). -/
def execOut (s : State) : Host.Outcome State Fault Refusal := runRoutine .out s

/-- TRAP x22 (R124). -/
def execPuts (s : State) : Host.Outcome State Fault Refusal := runRoutine .puts s

/-- TRAP x23 (R125). -/
def execInp (s : State) : Host.Outcome State Fault Refusal := runRoutine .inp s

/-- TRAP x24 (R126). -/
def execPutsp (s : State) : Host.Outcome State Fault Refusal := runRoutine .putsp s

/-- TRAP x25 (R127). -/
def execHalt (s : State) : Host.Outcome State Fault Refusal := runRoutine .halt s

end Sys2Proof.Machine
end

