-- ==== Sys2Proof/Machine/Step.lean ====
section
/-! DEFINITION. One step of the machine (20_memory.md R47; 10_state.md R35; 60_exceptions.md R163). -/

namespace Sys2Proof.Machine

/-- The instruction cycle (R46, R47): fetch, decode, execute. A fetch that holds has not happened
(10_state.md R34). -/
def State.cycle (s : State) : Host.Outcome State Fault Refusal :=
  match s.fetch with
  | some (ir, t) => exec (decode ir) t
  | none => .next s

/-- One step. Only RUNNING has one (R35). If the host acts first (R163, R34) its act is the step;
otherwise the block runs one instruction. -/
def step (s : State) : Host.Outcome State Fault Refusal :=
  match s.run with
  | .halted => .fault .halted
  | .faulted reason => .fault (.faulted reason)
  | .aborted => .fault .aborted
  | .running =>
    match s.nextAct with
    | .abort => .next s.acted.hostAbort
    | .deliver b => .next (s.acted.hostDeliver b)
    | .proceed => s.acted.cycle

/-- `s` with the instruction word `w` in the cell that the next fetch reads, the run state RUNNING and the
host's leave to proceed before its other acts, so that the next step runs that instruction
(notes/assumptions/16.md, 22.md). -/
def State.withFetchWord (s : State) (nbits w : Nat) : State :=
  { s.memWrite s.pc (BitVec.ofNat 16 (w % 2 ^ nbits)) with
    run := .running, hostEvents := .proceed :: s.hostEvents }

end Sys2Proof.Machine
end

