-- ==== Sys2Proof/Machine/Boot.lean ====
section
/-! DEFINITION. How the host brings the block up: image files, the loader, startup errors, exit codes
(70_reset_and_hazards.md R182 to R185, R190; notes/assumptions/16.md). No step calls these. -/

namespace Sys2Proof.Machine

/-- The big-endian 16-bit values of a byte sequence (R182); `none` for an odd number of bytes. -/
def imageValues : List Byte → Option (List Word)
  | [] => some []
  | [_] => none
  | hi :: lo :: bs =>
    match imageValues bs with
    | some ws => some (wordOfBytes hi lo :: ws)
    | none => none

/-- An image: its origin and the Words to load from there (R182). -/
structure Image where
  origin : Word
  words : List Word
deriving DecidableEq, Repr

/-- The image a file holds; `none` if it is malformed: fewer than 2 bytes or an odd number (R182,
92_eei_decisions.md D21). -/
def parseImage (file : List Byte) : Option Image :=
  match imageValues file with
  | some (origin :: words) => some ⟨origin, words⟩
  | some [] => none
  | none => none

/-- The loader's loop (R183): plain array writes at an unbounded address, cut at the end of the space. -/
def loadWords : Memory → Nat → List Word → Memory
  | m, _, [] => m
  | m, a, w :: ws => if a > 0xFFFF then m else loadWords (Memory.write m a w) (a + 1) ws

/-- `load(image)` (R183). -/
def loadImage (m : Memory) (image : Image) : Memory := loadWords m image.origin.toNat image.words

/-- The images in command-line order, later ones over earlier ones (R183, R184). A file is `none` if it
cannot be opened or read; the result is `none` if some file is that or is malformed (R185). -/
def loadFiles : Memory → List (Option (List Byte)) → Option Memory
  | m, [] => some m
  | _, none :: _ => none
  | m, some file :: files =>
    match parseImage file with
    | some image => loadFiles (loadImage m image) files
    | none => none

/-- A startup error ends the process before the first step (R185, 60_exceptions.md R174). -/
inductive StartupError where
  /-- No image argument. -/
  | missingArgument
  /-- An image that cannot be opened or read, or is malformed. -/
  | badImage
deriving DecidableEq, Repr

/-- The outcome of startup: the state the loop is entered with, or an error. -/
inductive Startup where
  | started (s : State)
  | failed (e : StartupError)
deriving DecidableEq, Repr

/-- Startup (R184): the zeroed Word Store, the images, the register file; then the loop. Loading never
sets PC (R183). -/
def boot (p : Params) (files : List (Option (List Byte))) : Startup :=
  match files with
  | [] => .failed .missingArgument
  | _ :: _ =>
    match loadFiles [] files with
    | some m => .started { State.resetWith p with mem := m }
    | none => .failed .badImage

/-- The exit code of a startup error (R190). -/
def StartupError.exitCode : StartupError → Nat
  | .missingArgument => 2
  | .badImage => 1

/-- The exit code of an ended run: 0 for HALT; the source gives none for a fault or an abort (R190). -/
def RunState.exitCode : RunState → Option Nat
  | .halted => some 0
  | .faulted _ => none
  | .aborted => none
  | .running => none

/-- The code of a fault reason (60_exceptions.md R161). -/
def StopReason.code : StopReason → Nat
  | .reservedOpcode _ => 1
  | .unknownTrap _ => 2
  | .trapDeviceRead _ => 3
  | .internal _ => 4

/-- The bytes a run has written, without the flush marks: what a flush does not change
(92_eei_decisions.md D20, D22). -/
def outBytes : List OutEvent → List Byte
  | [] => []
  | .byte b :: es => b :: outBytes es
  | .flush :: es => outBytes es

end Sys2Proof.Machine
end

