-- ==== Sys2Proof/WellFormed.lean ====
section
/-! DEFINITION. Which terms of `Instr` are instructions of the hardware under their own name. -/

namespace Sys2Proof

/-- An immediate or offset is the sign extension of its own low N bits (30_encoding.md R64). -/
def fitsSigned (n : Nat) (v : Word) : Bool := sext n v == v

/-- Every field holds a value its encoding can hold (30_encoding.md R62, R64, R69). -/
def Instr.fieldsFit : Instr → Bool
  | .addReg _ _ _ => true
  | .addImm _ _ imm => fitsSigned 5 imm
  | .andReg _ _ _ => true
  | .andImm _ _ imm => fitsSigned 5 imm
  | .not _ _ => true
  | .br _ _ _ off => fitsSigned 9 off
  | .jmp _ => true
  | .jsr off => fitsSigned 11 off
  | .jsrr _ => true
  | .ld _ off => fitsSigned 9 off
  | .ldi _ off => fitsSigned 9 off
  | .ldr _ _ off => fitsSigned 6 off
  | .lea _ off => fitsSigned 9 off
  | .st _ off => fitsSigned 9 off
  | .sti _ off => fitsSigned 9 off
  | .str _ _ off => fitsSigned 6 off
  | .trap _ => true
  | .reserved1000 ir => ir.extractLsb' 12 4 == 0b1000
  | .reserved1101 ir => ir.extractLsb' 12 4 == 0b1101
  | .ret => true
  | .getc => true
  | .out => true
  | .puts => true
  | .inp => true
  | .putsp => true
  | .halt => true

/-- The name under which the decoder answers this instruction: a word of an alias row gets the alias's
name (30_encoding.md R75; notes/assumptions/13.md). -/
def Instr.named (i : Instr) : Instr :=
  if i = .jmp .r7 then .ret
  else if i = .trap 0x20 then .getc
  else if i = .trap 0x21 then .out
  else if i = .trap 0x22 then .puts
  else if i = .trap 0x23 then .inp
  else if i = .trap 0x24 then .putsp
  else if i = .trap 0x25 then .halt
  else i

/-- The fields fit and no alias names the same word. -/
def Instr.wellFormed (i : Instr) : Bool := i.fieldsFit && i.named == i

/-- `i` is an instruction under the name the decoder gives it. -/
abbrev WellFormed (i : Instr) : Prop := i.wellFormed = true

end Sys2Proof
end

