-- ==== Sys2Proof/Safety.lean ====
section
/-! DEFINITION. The terms claims are stated in: what a step leaves unchanged, what an instruction may
write, and the invariant of every step. -/

namespace Sys2Proof

/-! ### What an instruction may write -/

/-- The flag-setting instructions (40_operate.md R80). -/
def Instr.setsFlags : Instr → Bool
  | .addReg _ _ _ => true
  | .addImm _ _ _ => true
  | .andReg _ _ _ => true
  | .andImm _ _ _ => true
  | .not _ _ => true
  | .br _ _ _ _ => false
  | .jmp _ => false
  | .jsr _ => false
  | .jsrr _ => false
  | .ld _ _ => true
  | .ldi _ _ => true
  | .ldr _ _ _ => true
  | .lea _ _ => true
  | .st _ _ => false
  | .sti _ _ => false
  | .str _ _ _ => false
  | .trap _ => false
  | .reserved1000 _ => false
  | .reserved1101 _ => false
  | .ret => false
  | .getc => false
  | .out => false
  | .puts => false
  | .inp => false
  | .putsp => false
  | .halt => false

/-- The general register an instruction writes by its own effect: DR, the link of JSR and JSRR, the R0 of
GETC and IN (10_state.md R20). TRAP's optional link in R7 is not counted here. -/
def Instr.destination (i : Instr) : Option Reg :=
  match i.core with
  | .addReg dr _ _ => some dr
  | .addImm dr _ _ => some dr
  | .andReg dr _ _ => some dr
  | .andImm dr _ _ => some dr
  | .not dr _ => some dr
  | .ld dr _ => some dr
  | .ldi dr _ => some dr
  | .ldr dr _ _ => some dr
  | .lea dr _ => some dr
  | .jsr _ => some .r7
  | .jsrr _ => some .r7
  | .trap vect => if vect = 0x20 ∨ vect = 0x23 then some .r0 else none
  | .br _ _ _ _ => none
  | .jmp _ => none
  | .st _ _ => none
  | .sti _ _ => none
  | .str _ _ _ => none
  | .reserved1000 _ => none
  | .reserved1101 _ => none
  | .ret => none
  | .getc => none
  | .out => none
  | .puts => none
  | .inp => none
  | .putsp => none
  | .halt => none

/-- The instruction is TRAP, under its own name or an alias's (43_trap.md R120). -/
def Instr.isTrap : Instr → Bool
  | .addReg _ _ _ => false
  | .addImm _ _ _ => false
  | .andReg _ _ _ => false
  | .andImm _ _ _ => false
  | .not _ _ => false
  | .br _ _ _ _ => false
  | .jmp _ => false
  | .jsr _ => false
  | .jsrr _ => false
  | .ld _ _ => false
  | .ldi _ _ => false
  | .ldr _ _ _ => false
  | .lea _ _ => false
  | .st _ _ => false
  | .sti _ _ => false
  | .str _ _ _ => false
  | .trap _ => true
  | .reserved1000 _ => false
  | .reserved1101 _ => false
  | .ret => false
  | .getc => true
  | .out => true
  | .puts => true
  | .inp => true
  | .putsp => true
  | .halt => true

end Sys2Proof

namespace Sys2Proof.Machine

/-! ### Frames -/

/-- Every cell of the Word Store reads as before. -/
def SameMemory (s t : State) : Prop := ∀ a : Word, t.cell a = s.cell a

/-- Every cell but `ea` reads as before. -/
def SameMemoryBut (ea : Word) (s t : State) : Prop := ∀ a : Word, a ≠ ea → t.cell a = s.cell a

/-- Every general register is unchanged. -/
def SameRegs (s t : State) : Prop := ∀ r : Reg, t.reg r = s.reg r

/-- Every general register but `d` is unchanged. -/
def SameRegsBut (d : Reg) (s t : State) : Prop := ∀ r : Reg, r ≠ d → t.reg r = s.reg r

/-- The input side of the Device Adapter is untouched: no byte read, no availability draw made. -/
def SameInput (s t : State) : Prop :=
  t.input = s.input ∧ t.draws = s.draws ∧ t.drawCount = s.drawCount

/-- One availability draw has been made: the first listed answer is used up, or, with none listed, the free
value's number goes up by one, so that the next draw is a fresh one (20_memory.md R43). -/
def DrawMade (s t : State) : Prop :=
  t.draws = s.draws.tail ∧ (s.draws = [] → t.drawCount = s.drawCount + 1) ∧
    (s.draws ≠ [] → t.drawCount = s.drawCount)

/-- The host's acts to come are unchanged. -/
def SameHost (s t : State) : Prop := t.hostEvents = s.hostEvents ∧ t.hostAfter = s.hostAfter

/-- The run state, the parameters and the host's acts to come are unchanged. -/
def SameControl (s t : State) : Prop := t.run = s.run ∧ t.params = s.params ∧ SameHost s t

/-- Nothing of the outside is touched: no output, no input, the run goes on as before. -/
def SameOutside (s t : State) : Prop :=
  t.out = s.out ∧ SameInput s t ∧ SameControl s t ∧ t.inPrompted = s.inPrompted

/-- What no read of the Word Store touches. -/
structure ReadFrame (s t : State) : Prop where
  regs : t.regs = s.regs
  pc : t.pc = s.pc
  cond : t.cond = s.cond
  out : t.out = s.out
  inPrompted : t.inPrompted = s.inPrompted
  run : t.run = s.run
  host : SameHost s t
  params : t.params = s.params

/-- The registers after TRAP's optional link (43_trap.md R120): R7 holds PC if `P_TRAP_LINK` is SAVE_PC, and
every other register, or R7 under NONE, is unchanged. -/
def LinkedReg (s : State) (r : Reg) : Word :=
  if r = .r7 ∧ s.params.trapLink = .savePC then s.pc else s.reg r

/-- Every register is as TRAP's link leaves it. -/
def LinkedRegs (s t : State) : Prop := ∀ r : Reg, t.reg r = LinkedReg s r

/-- Every register but `d` is as TRAP's link leaves it. -/
def LinkedRegsBut (d : Reg) (s t : State) : Prop := ∀ r : Reg, r ≠ d → t.reg r = LinkedReg s r

/-! ### The string of PUTS and PUTSP (43_trap.md R124, R126) -/

/-- The address `k` Words after R0, modulo 2^16. -/
def State.strAddr (s : State) (k : Nat) : Word := s.reg .r0 + BitVec.ofNat 16 k

/-- The Word at that address. -/
def State.strWord (s : State) (k : Nat) : Word := s.cell (s.strAddr k)

/-- The first `k` Words of the string are non-zero and lie outside `P_KBSR`: the scan passes them all. -/
def State.strPasses (s : State) (k : Nat) : Prop :=
  ∀ j < k, s.strAddr j ≠ s.params.kbsr ∧ s.strWord j ≠ 0

/-- The bytes of the first `k` Words, `chars` saying what one Word writes. -/
def State.strBytes (s : State) (chars : Word → List Byte) (k : Nat) : List Byte :=
  (List.range k).flatMap fun j => chars (s.strWord j)

/-- What PUTS or PUTSP did to the console and the run: the scan passed `k` Words, fewer than 65,536, and all
their bytes went out; then it met `P_KBSR` and faulted, or a zero Word and flushed. -/
def StringWritten (chars : Word → List Byte) (s t : State) : Prop :=
  ∃ k < 65536, s.strPasses k ∧
    ((s.strAddr k = s.params.kbsr ∧ t.run = .faulted (.trapDeviceRead s.params.kbsr) ∧
        t.out = s.out ++ (s.strBytes chars k).map .byte) ∨
     (s.strAddr k ≠ s.params.kbsr ∧ s.strWord k = 0 ∧ t.run = s.run ∧
        t.out = s.out ++ (s.strBytes chars k).map .byte ++ [.flush]))

/-! ### What a flag says (10_state.md R26) -/

/-- `c` is the flag of the value `v`: "Zero if the value is 0, Negative if its high bit is set, Positive
otherwise". -/
def FlagOf (v : Word) (c : Cond) : Prop :=
  (v = 0 → c = .z) ∧ (v.getLsbD 15 = true → c = .n) ∧ (v ≠ 0 → v.getLsbD 15 = false → c = .p)

/-! ### The host and the cycle -/

/-- The host lets the block run its next instruction: no act of its own stands before it. The cycle then
begins in `s.acted`. -/
def State.letRun (s : State) : Prop := s.nextAct = .proceed

/-! ### The invariant -/

/-- The word the next fetch reads plainly is IN's, so IN is the instruction that waits there. -/
def State.atIn (s : State) : Prop :=
  s.pc ≠ s.params.kbsr ∧ decode (s.cell s.pc) = .inp

/-- What every step keeps: the Word Store is in canonical form, the two device addresses differ
(00_scope.md R11), and a written prompt belongs to the IN that waits at PC (43_trap.md R125). -/
structure State.Inv (s : State) : Prop where
  memory : Memory.wf s.mem
  devices : s.params.kbsr ≠ s.params.kbdr
  prompt : s.inPrompted = true → s.atIn

end Sys2Proof.Machine
end

