-- ==== Sys2Proof/Certificates/Slice0/Obligations.lean ====
section
/-! DEFINITION. The statements for the provers. Each docstring names the rule it formalises. `exec i s` runs
the execute phase: `s.pc` already holds the address of the next instruction (00_scope.md R17). -/

open Sys2Proof Sys2Proof.Machine

/-! ### Encoding -/

/-- 30_encoding.md R63, R64, R67: every field value an encoding admits survives encoding and decoding. An
instruction whose word an alias names comes back under that name (notes/assumptions/13.md), every
well-formed one as itself. -/
def Obligations.DecodeOfEncodeIsTheInstruction : Prop :=
  ∀ i : Instr, (i.fieldsFit = true → decode (encode i) = i.named) ∧
    (WellFormed i → decode (encode i) = i)

/-- R63, R68: encoding what a word decodes to gives back every bit of the word that the decoder reads. -/
def Obligations.EncodeOfDecodeRestoresEveryReadBit : Prop :=
  ∀ w : Word, encode (decode w) &&& ~~~(ignoredBits (decode w)) = w &&& ~~~(ignoredBits (decode w))

/-- R68: changing any of the bits an instruction ignores leaves its decoding alone. The bits 11:0 of a
reserved word are kept by the decoder, because its fault records the whole word (R67). -/
def Obligations.IgnoredBitsHaveNoEffect : Prop :=
  ∀ w x : Word, decode (w ^^^ (x &&& ignoredBits (decode w))) = decode w

/-- R60: no word fails to decode, and each decodes to an instruction with fields its encoding can hold. -/
def Obligations.EveryWordDecodesToAWellFormedInstruction : Prop :=
  ∀ w : Word, WellFormed (decode w)

/-- R67 (with the opcode map R66 and the forms R65, R70): the decoding function, arm by arm. An alias is
read as the JMP or TRAP it stands for. -/
def Obligations.DecodeFollowsTheOpcodeMap : Prop :=
  ∀ w : Word,
    let op := w.extractLsb' 12 4
    let dr := Reg.ofBits (w.extractLsb' 9 3)
    let sr1 := Reg.ofBits (w.extractLsb' 6 3)
    let sr2 := Reg.ofBits (w.extractLsb' 0 3)
    let imm5 := (w.extractLsb' 0 5).signExtend 16
    let offset6 := (w.extractLsb' 0 6).signExtend 16
    let pcOffset9 := (w.extractLsb' 0 9).signExtend 16
    let pcOffset11 := (w.extractLsb' 0 11).signExtend 16
    let i := (decode w).core
    (op = 0b0001 → w.getLsbD 5 = false → i = .addReg dr sr1 sr2) ∧
    (op = 0b0001 → w.getLsbD 5 = true → i = .addImm dr sr1 imm5) ∧
    (op = 0b0101 → w.getLsbD 5 = false → i = .andReg dr sr1 sr2) ∧
    (op = 0b0101 → w.getLsbD 5 = true → i = .andImm dr sr1 imm5) ∧
    (op = 0b1001 → i = .not dr sr1) ∧
    (op = 0b0000 → i = .br (w.getLsbD 11) (w.getLsbD 10) (w.getLsbD 9) pcOffset9) ∧
    (op = 0b1100 → i = .jmp sr1) ∧
    (op = 0b0100 → w.getLsbD 11 = true → i = .jsr pcOffset11) ∧
    (op = 0b0100 → w.getLsbD 11 = false → i = .jsrr sr1) ∧
    (op = 0b0010 → i = .ld dr pcOffset9) ∧
    (op = 0b1010 → i = .ldi dr pcOffset9) ∧
    (op = 0b0110 → i = .ldr dr sr1 offset6) ∧
    (op = 0b1110 → i = .lea dr pcOffset9) ∧
    (op = 0b0011 → i = .st dr pcOffset9) ∧
    (op = 0b1011 → i = .sti dr pcOffset9) ∧
    (op = 0b0111 → i = .str dr sr1 offset6) ∧
    (op = 0b1111 → i = .trap (w.extractLsb' 0 8)) ∧
    (op = 0b1000 → i = .reserved1000 w) ∧
    (op = 0b1101 → i = .reserved1101 w)

/-- 95_test_vectors.md 2.2: words written out from the encodings decode to their instructions. -/
def Obligations.SampleWordsDecode : Prop :=
  decode 0b0001010000000001 = .addReg .r2 .r0 .r1 ∧
  decode 0b0001010000011001 = .addReg .r2 .r0 .r1 ∧
  decode 0b0001001000110110 = .addImm .r1 .r0 0xFFF6 ∧
  decode 0b0101000000100000 = .andImm .r0 .r0 0x0000 ∧
  decode 0b1001000000111111 = .not .r0 .r0 ∧
  decode 0b1001000000000000 = .not .r0 .r0 ∧
  decode 0b0000111000000001 = .br true true true 0x0001 ∧
  decode 0b1100111111111111 = .ret ∧
  decode 0b0100100000000100 = .jsr 0x0004 ∧
  decode 0b0100000011000000 = .jsrr .r3 ∧
  decode 0b1111000100100101 = .halt ∧
  decode 0b1101000100100011 = .reserved1101 0xD123

/-- 00_scope.md R14: `sext_N` keeps the low N bits and copies bit N-1 into every higher bit; `sext_16` is the
identity; `zext_16` leaves bits 15:8 zero. -/
def Obligations.SignAndZeroExtension : Prop :=
  (∀ (n : Nat) (v : Word) (k : Nat), 1 ≤ n → n < 16 → k < 16 →
    (sext n v).getLsbD k = if k < n then v.getLsbD k else v.getLsbD (n - 1)) ∧
  (∀ v : Word, sext 16 v = v) ∧
  (∀ (b : Byte) (k : Nat), (zext b).getLsbD k = if k < 8 then b.getLsbD k else false)

/-! ### The step -/

/-- 20_memory.md R46, R47: away from `P_KBSR` a step fetches the word at PC, increments PC modulo 2^16 and
runs the instruction the word decodes to. -/
def Obligations.StepRunsTheDecodedInstruction : Prop :=
  ∀ s : State, s.run = .running → s.letRun → s.pc ≠ s.params.kbsr →
    step s = exec (decode (s.cell s.pc)) { s.acted with pc := s.pc + 1 }

/-- R46 with R40, R43, R90, R150: a step that fetches at `P_KBSR` polls, with one fresh draw. With no key
the word is 0x0000, a BR never taken; with a key it is 0x8000, which faults after the poll has consumed
the key; with a key announced and no byte delivered the step holds. How the draws are kept and how a
hold is answered is the model's (notes/assumptions/7.md, 9.md). -/
def Obligations.FetchAtKeyboardStatusPolls : Prop :=
  ∀ s : State, s.run = .running → s.letRun → s.pc = s.params.kbsr → Memory.wf s.mem →
    s.params.kbsr ≠ s.params.kbdr →
    (s.keyAnswer = false → ∃ t, step s = .next t ∧ t.pc = s.pc + 1 ∧ t.run = .running ∧
      t.cell s.params.kbsr = 0x0000 ∧ SameMemoryBut s.params.kbsr s t ∧ t.input = s.input ∧
      DrawMade s t ∧ t.regs = s.regs ∧ t.cond = s.cond ∧ t.out = s.out) ∧
    (∀ c cs, s.keyAnswer = true → s.input = c :: cs → ∃ t, step s = .next t ∧ t.pc = s.pc + 1 ∧
      t.run = .faulted (.reservedOpcode 0x8000) ∧ t.cell s.params.kbsr = 0x8000 ∧
      t.cell s.params.kbdr = zext c ∧
      (∀ a, a ≠ s.params.kbsr → a ≠ s.params.kbdr → t.cell a = s.cell a) ∧ t.input = cs ∧
      DrawMade s t ∧ t.regs = s.regs ∧ t.cond = s.cond ∧ t.out = s.out) ∧
    (s.keyAnswer = true → s.input = [] → step s = .next s.acted)

/-- 10_state.md R35, 60_exceptions.md R160: only RUNNING has a next step. -/
def Obligations.AnEndedRunHasNoStep : Prop :=
  ∀ s : State,
    (s.run = .halted → step s = .fault .halted) ∧
    (∀ e, s.run = .faulted e → step s = .fault (.faulted e)) ∧
    (s.run = .aborted → step s = .fault .aborted) ∧
    (s.run = .running → ∃ t, step s = .next t)

/-- 60_exceptions.md R163, R164, 10_state.md R33, R34: between two steps the host may abort the run, deliver a byte or
let the block run; its act changes nothing else. Its acts are those listed, in order; after them it
either lets the block run on for good, or acts without end, each act a free value, so that no bound is
set to the bytes it delivers (the form is the model's: notes/assumptions/12.md). -/
def Obligations.TheHostActsBetweenSteps : Prop :=
  ∀ (s : State) (e : HostEvent) (es : List HostEvent) (b : Byte) (n : Nat),
    (s.run = .running → s.nextAct = .abort → step s = .next { s.acted with run := .aborted }) ∧
    (s.run = .running → s.nextAct = .deliver b →
      step s = .next { s.acted with input := s.input ++ [b] }) ∧
    (s.run = .running → s.nextAct = .proceed → step s = s.acted.cycle) ∧
    (s.hostEvents = e :: es → s.nextAct = e ∧ s.acted = { s with hostEvents := es }) ∧
    (s.hostEvents = [] → s.hostAfter = .runsOn → s.nextAct = .proceed ∧ s.acted = s) ∧
    (s.hostEvents = [] → s.hostAfter = .free n →
      s.nextAct = Config.hostAct n ∧ s.acted = { s with hostAfter := .free (n + 1) })

/-- 10_state.md R35, 60_exceptions.md R161, R163, 70_reset_and_hazards.md R191, 30_encoding.md R73: a run
ends only by the host's abort, by HALT, or by the fault its instruction names; the reason INTERNAL is
never given. -/
def Obligations.ARunEndsOnlyByAbortHaltOrANamedFault : Prop :=
  ∀ s t : State, step s = .next t →
    t.run = .running ∨
    (t.run = .aborted ∧ s.nextAct = .abort) ∨
    ∃ ir u, s.letRun ∧ s.acted.fetch = some (ir, u) ∧
      ((t.run = .halted ∧ decode ir = .halt) ∨
       (t.run = .faulted (.reservedOpcode ir) ∧ (ir.extractLsb' 12 4 = 0b1000 ∨ ir.extractLsb' 12 4 = 0b1101)) ∨
       (∃ v, t.run = .faulted (.unknownTrap v) ∧ decode ir = .trap v ∧ (v.toNat < 0x20 ∨ 0x25 < v.toNat)) ∨
       (t.run = .faulted (.trapDeviceRead s.params.kbsr) ∧ (decode ir = .puts ∨ decode ir = .putsp)))

/-- Every step keeps the invariant: the Word Store's canonical form, two distinct device addresses, and a
written prompt only where IN waits. -/
def Obligations.EveryStepKeepsTheInvariant : Prop :=
  ∀ s t : State, s.Inv → step s = .next t → t.Inv

/-- The invariant holds at reset, and at the start of every block whose device addresses differ
(00_scope.md R11), whatever images are loaded (70_reset_and_hazards.md R184). -/
def Obligations.TheInvariantHoldsAtTheStart : Prop :=
  State.reset.Inv ∧
  ∀ p files s, p.kbsr ≠ p.kbdr → boot p files = .started s → s.Inv

/-- 00_scope.md R11: no step writes a parameter. -/
def Obligations.NoStepChangesAParameter : Prop :=
  ∀ s t : State, step s = .next t → t.params = s.params

/-- 10_state.md R33: the output sequence only grows; nothing written is taken back. -/
def Obligations.TheOutputOnlyGrows : Prop :=
  ∀ s t : State, step s = .next t → ∃ es, t.out = s.out ++ es

/-- 10_state.md R33, R34: input bytes are consumed from the front, in the order delivered; a step in which the host
delivers a byte puts it at the end (the host's acts as the model keeps them: notes/assumptions/12.md). -/
def Obligations.InputIsConsumedInOrder : Prop :=
  ∀ s t : State, step s = .next t →
    (∀ b, s.nextAct = .deliver b → t.input = s.input ++ [b]) ∧
    ((∀ b, s.nextAct ≠ .deliver b) → ∃ read, s.input = read ++ t.input)

/-- 10_state.md R25, R29: COND holds none of the flags only at reset: no step clears a flag without setting
one. -/
def Obligations.AFlagOnceSetStaysSet : Prop :=
  ∀ s t : State, s.cond ≠ .none → step s = .next t → t.cond ≠ .none

/-! ### Operate instructions (40_operate.md) -/

/-- R81, R82, with the decoding of both forms: ADD writes the sum modulo 2^16 to DR, sets COND from it, and
touches nothing else. -/
def Obligations.AddWritesTheSum : Prop :=
  (∀ w : Word, w.extractLsb' 12 4 = 0b0001 → w.getLsbD 5 = false →
    decode w = .addReg (fieldDR w) (fieldSR1 w) (fieldSR2 w)) ∧
  (∀ w : Word, w.extractLsb' 12 4 = 0b0001 → w.getLsbD 5 = true →
    decode w = .addImm (fieldDR w) (fieldSR1 w) (sext 5 w)) ∧
  (∀ (dr sr1 sr2 : Reg) (s : State), ∃ t, exec (.addReg dr sr1 sr2) s = .next t ∧
    (t.reg dr).toNat = ((s.reg sr1).toNat + (s.reg sr2).toNat) % 2 ^ 16 ∧ FlagOf (t.reg dr) t.cond ∧
    SameRegsBut dr s t ∧ t.pc = s.pc ∧ SameMemory s t ∧ SameOutside s t) ∧
  (∀ (dr sr1 : Reg) (imm : Word) (s : State), ∃ t, exec (.addImm dr sr1 imm) s = .next t ∧
    (t.reg dr).toNat = ((s.reg sr1).toNat + imm.toNat) % 2 ^ 16 ∧ FlagOf (t.reg dr) t.cond ∧
    SameRegsBut dr s t ∧ t.pc = s.pc ∧ SameMemory s t ∧ SameOutside s t)

/-- R83, R84, with the decoding of both forms: AND writes the bitwise and to DR, sets COND from it, and
touches nothing else. -/
def Obligations.AndWritesTheBitwiseAnd : Prop :=
  (∀ w : Word, w.extractLsb' 12 4 = 0b0101 → w.getLsbD 5 = false →
    decode w = .andReg (fieldDR w) (fieldSR1 w) (fieldSR2 w)) ∧
  (∀ w : Word, w.extractLsb' 12 4 = 0b0101 → w.getLsbD 5 = true →
    decode w = .andImm (fieldDR w) (fieldSR1 w) (sext 5 w)) ∧
  (∀ (dr sr1 sr2 : Reg) (s : State), ∃ t, exec (.andReg dr sr1 sr2) s = .next t ∧
    (∀ k, (t.reg dr).getLsbD k = ((s.reg sr1).getLsbD k && (s.reg sr2).getLsbD k)) ∧
    FlagOf (t.reg dr) t.cond ∧ SameRegsBut dr s t ∧ t.pc = s.pc ∧ SameMemory s t ∧ SameOutside s t) ∧
  (∀ (dr sr1 : Reg) (imm : Word) (s : State), ∃ t, exec (.andImm dr sr1 imm) s = .next t ∧
    (∀ k, (t.reg dr).getLsbD k = ((s.reg sr1).getLsbD k && imm.getLsbD k)) ∧
    FlagOf (t.reg dr) t.cond ∧ SameRegsBut dr s t ∧ t.pc = s.pc ∧ SameMemory s t ∧ SameOutside s t)

/-- R85, with its decoding: NOT complements all sixteen bits, sets COND, and touches nothing else. -/
def Obligations.NotComplementsEveryBit : Prop :=
  (∀ w : Word, w.extractLsb' 12 4 = 0b1001 → decode w = .not (fieldDR w) (fieldSR1 w)) ∧
  ∀ (dr sr : Reg) (s : State), ∃ t, exec (.not dr sr) s = .next t ∧
    (∀ k, k < 16 → (t.reg dr).getLsbD k = !(s.reg sr).getLsbD k) ∧ FlagOf (t.reg dr) t.cond ∧
    SameRegsBut dr s t ∧ t.pc = s.pc ∧ SameMemory s t ∧ SameOutside s t

/-- R87: with the same second operand value the two forms of ADD, and of AND, give the same result. -/
def Obligations.RegisterAndImmediateModesAgree : Prop :=
  ∀ (dr sr1 sr2 : Reg) (imm : Word) (s : State), s.reg sr2 = imm →
    exec (.addReg dr sr1 sr2) s = exec (.addImm dr sr1 imm) s ∧
    exec (.andReg dr sr1 sr2) s = exec (.andImm dr sr1 imm) s

/-- 10_state.md R26: `setcc(v)` sets exactly one flag, Z for 0, N for a set high bit, P otherwise, and writes
COND alone. -/
def Obligations.SetccSetsExactlyOneFlag : Prop :=
  ∀ (s : State) (v : Word),
    (v = 0 → condBits (s.setcc v).cond = 0b010) ∧
    (v.getLsbD 15 = true → condBits (s.setcc v).cond = 0b100) ∧
    (v ≠ 0 → v.getLsbD 15 = false → condBits (s.setcc v).cond = 0b001) ∧
    { s.setcc v with cond := s.cond } = s

/-! ### Control transfer (41_control.md) -/

/-- R90: BR is taken exactly if a requested flag is set in COND = n::z::p; the target is the incremented PC plus
the offset, modulo 2^16. Nothing but PC changes. -/
def Obligations.BranchFollowsTheRequestedFlags : Prop :=
  (∀ w : Word, w.extractLsb' 12 4 = 0b0000 →
    decode w = .br (w.getLsbD 11) (w.getLsbD 10) (w.getLsbD 9) (sext 9 w)) ∧
  ∀ (n z p : Bool) (off : Word) (s : State), ∃ t, exec (.br n z p off) s = .next t ∧
    t.pc = (if (n && (condBits s.cond).getLsbD 2) || (z && (condBits s.cond).getLsbD 1) ||
        (p && (condBits s.cond).getLsbD 0) then s.pc + off else s.pc) ∧
    t.cond = s.cond ∧ SameRegs s t ∧ SameMemory s t ∧ SameOutside s t

/-- R91: JMP loads PC from BaseR, and RET is JMP R7. Nothing else changes. -/
def Obligations.JumpLoadsPcFromItsBase : Prop :=
  (∀ w : Word, w.extractLsb' 12 4 = 0b1100 → (decode w).core = .jmp (fieldSR1 w)) ∧
  (∀ (base : Reg) (s : State), ∃ t, exec (.jmp base) s = .next t ∧ t.pc = s.reg base ∧
    t.cond = s.cond ∧ SameRegs s t ∧ SameMemory s t ∧ SameOutside s t) ∧
  ∀ s : State, ∃ t, exec .ret s = .next t ∧ t.pc = s.reg .r7 ∧
    t.cond = s.cond ∧ SameRegs s t ∧ SameMemory s t ∧ SameOutside s t

/-- R92: JSR saves the address of the next instruction in R7 and branches relative to it. -/
def Obligations.JsrLinksAndBranches : Prop :=
  (∀ w : Word, w.extractLsb' 12 4 = 0b0100 → w.getLsbD 11 = true → decode w = .jsr (sext 11 w)) ∧
  ∀ (off : Word) (s : State), ∃ t, exec (.jsr off) s = .next t ∧ t.reg .r7 = s.pc ∧
    t.pc = s.pc + off ∧ t.cond = s.cond ∧ SameRegsBut .r7 s t ∧ SameMemory s t ∧ SameOutside s t

/-- R93: JSRR writes R7 first and then loads PC from BaseR, so `JSRR R7` goes on at the next word. -/
def Obligations.JsrrLinksBeforeItReadsItsBase : Prop :=
  (∀ w : Word, w.extractLsb' 12 4 = 0b0100 → w.getLsbD 11 = false → decode w = .jsrr (fieldSR1 w)) ∧
  ∀ (base : Reg) (s : State), ∃ t, exec (.jsrr base) s = .next t ∧ t.reg .r7 = s.pc ∧
    (base = .r7 → t.pc = s.pc) ∧ (base ≠ .r7 → t.pc = s.reg base) ∧
    t.cond = s.cond ∧ SameRegsBut .r7 s t ∧ SameMemory s t ∧ SameOutside s t

/-! ### Memory and the read path (20_memory.md) -/

/-- R40, R42, R43: the read path. A read of any address but `P_KBSR` is plain. A read of `P_KBSR` makes one
availability draw, a fresh one each time: with no key it stores and returns 0x0000; with a key it
consumes a byte, stores 0x8000 and the zero-extended byte, and returns 0x8000; with a key announced and
no byte it holds. How the draws are kept and how a hold is answered is the model's
(notes/assumptions/7.md, 9.md). -/
def Obligations.TheReadPathPollsAtKeyboardStatus : Prop :=
  ∀ (s : State) (a : Word), Memory.wf s.mem → s.params.kbsr ≠ s.params.kbdr →
    (a ≠ s.params.kbsr → s.memRead a = some (s.cell a, s)) ∧
    (a = s.params.kbsr → s.keyAnswer = false → ∃ t, s.memRead a = some (0x0000, t) ∧
      t.cell a = 0x0000 ∧ SameMemoryBut a s t ∧ t.input = s.input ∧ DrawMade s t ∧ ReadFrame s t) ∧
    (a = s.params.kbsr → s.keyAnswer = true → ∀ c cs, s.input = c :: cs →
      ∃ t, s.memRead a = some (0x8000, t) ∧ t.cell a = 0x8000 ∧ t.cell s.params.kbdr = zext c ∧
      (∀ b, b ≠ a → b ≠ s.params.kbdr → t.cell b = s.cell b) ∧ t.input = cs ∧
      DrawMade s t ∧ ReadFrame s t) ∧
    (a = s.params.kbsr → s.keyAnswer = true → s.input = [] → s.memRead a = none) ∧
    (∀ b bs, s.draws = b :: bs → s.keyAnswer = b) ∧
    (s.draws = [] → s.keyAnswer = Config.keyAvailable s.drawCount)

/-- R44: a write stores its value at its address, the device addresses included, and has no other effect. -/
def Obligations.AWriteIsPlainStorageEverywhere : Prop :=
  ∀ (s : State) (a v : Word), Memory.wf s.mem →
    (s.memWrite a v).cell a = v ∧ SameMemoryBut a s (s.memWrite a v) ∧
    { s.memWrite a v with mem := s.mem } = s

/-- The canonical form (notes/assumptions/5.md): two Word Stores that read alike at every address are the
same data. -/
def Obligations.EqualReadsMeanEqualMemory : Prop :=
  ∀ m m' : Memory, Memory.wf m → Memory.wf m' →
    (∀ a, a < 65536 → Memory.read m a = Memory.read m' a) → m = m'

/-- R57, R188: a store to the next instruction's address, by ST, STR or STI, is seen by the very next fetch. -/
def Obligations.AStoreIsSeenByTheNextFetch : Prop :=
  ∀ (s : State) (sr : Reg), Memory.wf s.mem → s.run = .running → s.letRun →
    s.pc ≠ s.params.kbsr → s.pc + 1 ≠ s.params.kbsr →
    (let i := decode (s.cell s.pc)
     let u : State := { s.acted with pc := s.pc + 1 }
     (∃ off, i = .st sr off ∧ u.pcRel off = s.pc + 1) ∨
     (∃ base off, i = .str sr base off ∧ u.baseOff base off = s.pc + 1) ∨
     (∃ off v, i = .sti sr off ∧ u.memRead (u.pcRel off) = some (s.pc + 1, v))) →
    ∃ t w, step s = .next t ∧ t.pc = s.pc + 1 ∧ t.fetch = some (s.reg sr, w) ∧ w.pc = s.pc + 2

/-! ### Loads and stores (42_load_store.md) -/

/-- R100, R102: where the effective address is not `P_KBSR`, LD and LDR complete: DR receives the cell, COND its
flag, and nothing else changes. LDI completes so where neither of its two addresses is `P_KBSR`. -/
def Obligations.LoadsOfOrdinaryCellsComplete : Prop :=
  (∀ (dr : Reg) (off : Word) (s : State), s.pc + off ≠ s.params.kbsr →
    ∃ t, exec (.ld dr off) s = .next t ∧ t.reg dr = s.cell (s.pc + off) ∧
      FlagOf (t.reg dr) t.cond ∧ SameRegsBut dr s t ∧ t.pc = s.pc ∧ SameMemory s t ∧ SameOutside s t) ∧
  (∀ (dr base : Reg) (off : Word) (s : State), s.reg base + off ≠ s.params.kbsr →
    ∃ t, exec (.ldr dr base off) s = .next t ∧ t.reg dr = s.cell (s.reg base + off) ∧
      FlagOf (t.reg dr) t.cond ∧ SameRegsBut dr s t ∧ t.pc = s.pc ∧ SameMemory s t ∧ SameOutside s t) ∧
  (∀ (dr : Reg) (off : Word) (s : State), s.pc + off ≠ s.params.kbsr →
    s.cell (s.pc + off) ≠ s.params.kbsr →
    ∃ t, exec (.ldi dr off) s = .next t ∧ t.reg dr = s.cell (s.cell (s.pc + off)) ∧
      FlagOf (t.reg dr) t.cond ∧ SameRegsBut dr s t ∧ t.pc = s.pc ∧ SameMemory s t ∧ SameOutside s t)

/-- R100, R102: LD and LDR at any effective address load what the read path answers and set COND from it; the
device side effect is the read's alone. Where the read holds, the instruction has not happened. -/
def Obligations.LoadsGoThroughTheReadPath : Prop :=
  ∀ (dr base : Reg) (off v : Word) (s u : State),
    (s.memRead (s.pc + off) = some (v, u) →
      ∃ t, exec (.ld dr off) s = .next t ∧ t.reg dr = v ∧ FlagOf v t.cond ∧ SameRegsBut dr s t ∧
        t.pc = s.pc ∧ SameMemory u t ∧ SameOutside u t) ∧
    (s.memRead (s.pc + off) = none → exec (.ld dr off) s = .next { s with pc := s.pc - 1 }) ∧
    (s.memRead (s.reg base + off) = some (v, u) →
      ∃ t, exec (.ldr dr base off) s = .next t ∧ t.reg dr = v ∧ FlagOf v t.cond ∧ SameRegsBut dr s t ∧
        t.pc = s.pc ∧ SameMemory u t ∧ SameOutside u t) ∧
    (s.memRead (s.reg base + off) = none →
      exec (.ldr dr base off) s = .next { s with pc := s.pc - 1 })

/-- R101: LDI is two chained reads, the pointer and then the data, both through the read path; if either
holds, the instruction has not happened. -/
def Obligations.LdiIsTwoChainedReads : Prop :=
  ∀ (dr : Reg) (off ea v : Word) (s u u' : State),
    (s.memRead (s.pc + off) = some (ea, u) → u.memRead ea = some (v, u') →
      ∃ t, exec (.ldi dr off) s = .next t ∧ t.reg dr = v ∧ FlagOf v t.cond ∧ SameRegsBut dr s t ∧
        t.pc = s.pc ∧ SameMemory u' t ∧ SameOutside u' t) ∧
    (s.memRead (s.pc + off) = none → exec (.ldi dr off) s = .next { s with pc := s.pc - 1 }) ∧
    (s.memRead (s.pc + off) = some (ea, u) → u.memRead ea = none →
      exec (.ldi dr off) s = .next { s with pc := s.pc - 1 })

/-- R103: LEA writes the address, sets COND from it, and reads no memory: at every address, `P_KBSR` included,
nothing else changes. -/
def Obligations.LeaComputesWithoutReading : Prop :=
  (∀ w : Word, w.extractLsb' 12 4 = 0b1110 → decode w = .lea (fieldDR w) (sext 9 w)) ∧
  ∀ (dr : Reg) (off : Word) (s : State), ∃ t, exec (.lea dr off) s = .next t ∧
    t.reg dr = s.pc + off ∧ FlagOf (t.reg dr) t.cond ∧ SameRegsBut dr s t ∧ t.pc = s.pc ∧
    SameMemory s t ∧ SameOutside s t

/-- R104, R106: ST and STR store SR at their effective address and touch nothing else, COND included. -/
def Obligations.DirectStoresWriteOneCell : Prop :=
  (∀ w : Word, w.extractLsb' 12 4 = 0b0011 → decode w = .st (fieldDR w) (sext 9 w)) ∧
  (∀ w : Word, w.extractLsb' 12 4 = 0b0111 → decode w = .str (fieldDR w) (fieldSR1 w) (sext 6 w)) ∧
  (∀ (sr : Reg) (off : Word) (s : State), Memory.wf s.mem →
    ∃ t, exec (.st sr off) s = .next t ∧ t.cell (s.pcRel off) = s.reg sr ∧
      SameMemoryBut (s.pcRel off) s t ∧ SameRegs s t ∧ t.cond = s.cond ∧ t.pc = s.pc ∧ SameOutside s t) ∧
  (∀ (sr base : Reg) (off : Word) (s : State), Memory.wf s.mem →
    ∃ t, exec (.str sr base off) s = .next t ∧ t.cell (s.baseOff base off) = s.reg sr ∧
      SameMemoryBut (s.baseOff base off) s t ∧ SameRegs s t ∧ t.cond = s.cond ∧ t.pc = s.pc ∧
      SameOutside s t)

/-- R105: STI stores SR at the address its pointer read answers; the only other change is that read's own
device side effect. Where the pointer read holds, the instruction has not happened. -/
def Obligations.StiStoresThroughItsPointer : Prop :=
  (∀ w : Word, w.extractLsb' 12 4 = 0b1011 → decode w = .sti (fieldDR w) (sext 9 w)) ∧
  (∀ (sr : Reg) (off : Word) (s : State), Memory.wf s.mem → s.pcRel off ≠ s.params.kbsr →
    ∃ t, exec (.sti sr off) s = .next t ∧ t.cell (s.cell (s.pcRel off)) = s.reg sr ∧
      SameMemoryBut (s.cell (s.pcRel off)) s t ∧ SameRegs s t ∧ t.cond = s.cond ∧ t.pc = s.pc ∧
      SameOutside s t) ∧
  (∀ (sr : Reg) (off ea : Word) (s u : State), Memory.wf s.mem →
    s.memRead (s.pcRel off) = some (ea, u) →
    ∃ t, exec (.sti sr off) s = .next t ∧ t.cell ea = s.reg sr ∧ SameMemoryBut ea u t ∧ SameRegs s t ∧
      t.cond = s.cond ∧ t.pc = s.pc ∧ SameOutside u t) ∧
  (∀ (sr : Reg) (off : Word) (s : State), s.memRead (s.pcRel off) = none →
    exec (.sti sr off) s = .next { s with pc := s.pc - 1 })

/-! ### TRAP and its routines (43_trap.md) -/

/-- R120, R121, R75: TRAP selects its routine by the vector, and each alias is the TRAP (or JMP) it stands for. -/
def Obligations.AnAliasRunsAsItsCoreInstruction : Prop :=
  ∀ (i : Instr) (s : State), exec i s = exec i.core s

/-- R120, R121, R131: for each vector of the table TRAP completes (GETC and IN where a byte is there), with its
routine's effects and no others. GETC and IN read a byte into R0; OUT, PUTS, PUTSP and HALT write the
console. No cell is written, no register but R0 by GETC and IN and TRAP's link, and COND only by GETC
and IN under `P_TRAP_SETS_CC`. -/
def Obligations.TrapCompletesForEveryKnownVector : Prop :=
  ∀ (v : Byte) (s : State), 0x20 ≤ v.toNat → v.toNat ≤ 0x25 → (v = 0x20 ∨ v = 0x23 → s.input ≠ []) →
    ∃ t, exec (.trap v) s = .next t ∧ t.pc = s.pc ∧ SameMemory s t ∧ LinkedRegsBut .r0 s t ∧
      t.params = s.params ∧ SameHost s t ∧ t.draws = s.draws ∧
      t.drawCount = s.drawCount ∧
      (v = 0x20 → ∃ c, s.input = c :: t.input ∧ t.reg .r0 = c.zeroExtend 16 ∧ t.out = s.out) ∧
      (v = 0x23 → ∃ c, s.input = c :: t.input ∧
        t.reg .r0 = (match s.params.inExt with | .zero => c.zeroExtend 16 | .sign => c.signExtend 16) ∧
        t.out = s.out ++ (if s.inPrompted then [] else s.params.inPrompt.map .byte ++ [.flush]) ++
          [.byte c, .flush]) ∧
      (v = 0x20 ∨ v = 0x23 → t.run = s.run ∧
        (s.params.trapSetsCC = true → FlagOf (t.reg .r0) t.cond) ∧
        (s.params.trapSetsCC = false → t.cond = s.cond)) ∧
      (v ≠ 0x20 → v ≠ 0x23 → t.reg .r0 = s.reg .r0 ∧ t.cond = s.cond ∧ t.input = s.input) ∧
      t.inPrompted = (if v = 0x23 then false else s.inPrompted) ∧
      (v = 0x21 → t.run = s.run ∧ t.out = s.out ++ [.byte ((s.reg .r0).extractLsb' 0 8), .flush]) ∧
      (v = 0x22 → StringWritten (fun w => [w.extractLsb' 0 8]) s t) ∧
      (v = 0x24 → StringWritten (fun w =>
        w.extractLsb' 0 8 :: (if w.extractLsb' 8 8 = (0 : Byte) then [] else [w.extractLsb' 8 8])) s t) ∧
      (v = 0x25 → t.run = .halted ∧ t.out = s.out ++ s.params.haltNotice.map .byte ++ [.flush])

/-- R122, R129: GETC consumes the next byte into R0, zero-extended, with no echo; COND only if
`P_TRAP_SETS_CC`. -/
def Obligations.GetcReadsOneCharacter : Prop :=
  ∀ (s : State) (c : Byte) (cs : List Byte), s.input = c :: cs →
    ∃ t, exec .getc s = .next t ∧ t.reg .r0 = zext c ∧ LinkedRegsBut .r0 s t ∧ t.input = cs ∧
      (s.params.trapSetsCC = true → FlagOf (t.reg .r0) t.cond) ∧
      (s.params.trapSetsCC = false → t.cond = s.cond) ∧
      t.pc = s.pc ∧ t.out = s.out ∧ t.draws = s.draws ∧ t.drawCount = s.drawCount ∧ SameMemory s t ∧
      SameControl s t ∧ t.inPrompted = s.inPrompted

/-- R123: OUT writes the low byte of R0 and flushes; no register but TRAP's link changes. -/
def Obligations.OutWritesTheLowByte : Prop :=
  ∀ s : State, ∃ t, exec .out s = .next t ∧
    t.out = s.out ++ [.byte ((s.reg .r0).extractLsb' 0 8), .flush] ∧ LinkedRegs s t ∧ t.cond = s.cond ∧
    t.pc = s.pc ∧ SameMemory s t ∧ SameInput s t ∧ SameControl s t ∧ t.inPrompted = s.inPrompted

/-- R124, 20_memory.md R59: PUTS always ends, within 65,536 reads. It writes the low byte of each Word from R0 on;
at a zero Word it flushes, at `P_KBSR` it faults with the bytes written so far kept. -/
def Obligations.PutsWritesUpToAZeroWord : Prop :=
  ∀ s : State, ∃ t, exec .puts s = .next t ∧ StringWritten (fun w => [w.extractLsb' 0 8]) s t ∧
    LinkedRegs s t ∧ t.cond = s.cond ∧ t.pc = s.pc ∧ SameMemory s t ∧ SameInput s t ∧
    t.params = s.params ∧ SameHost s t ∧ t.inPrompted = s.inPrompted

/-- R126, R59: PUTSP scans as PUTS does and writes each Word's low byte, then its high byte if non-zero. -/
def Obligations.PutspWritesTwoCharactersAWord : Prop :=
  ∀ s : State, ∃ t, exec .putsp s = .next t ∧
    StringWritten (fun w =>
      w.extractLsb' 0 8 :: (if w.extractLsb' 8 8 = (0 : Byte) then [] else [w.extractLsb' 8 8])) s t ∧
    LinkedRegs s t ∧ t.cond = s.cond ∧ t.pc = s.pc ∧ SameMemory s t ∧ SameInput s t ∧
    t.params = s.params ∧ SameHost s t ∧ t.inPrompted = s.inPrompted

/-- R125, R129: IN writes its prompt and flushes, reads one character, echoes it and flushes, and widens it into R0
as `P_IN_EXT` says. An IN that has waited has written its prompt already (notes/assumptions/10.md). -/
def Obligations.InPromptsReadsAndEchoes : Prop :=
  ∀ (s : State) (c : Byte) (cs : List Byte), s.input = c :: cs →
    ∃ t, exec .inp s = .next t ∧
      t.out = s.out ++ (if s.inPrompted then [] else s.params.inPrompt.map .byte ++ [.flush]) ++
        [.byte c, .flush] ∧
      (s.params.inExt = .zero → t.reg .r0 = c.zeroExtend 16) ∧
      (s.params.inExt = .sign → t.reg .r0 = c.signExtend 16) ∧
      LinkedRegsBut .r0 s t ∧ t.input = cs ∧
      (s.params.trapSetsCC = true → FlagOf (t.reg .r0) t.cond) ∧
      (s.params.trapSetsCC = false → t.cond = s.cond) ∧
      t.pc = s.pc ∧ t.draws = s.draws ∧ t.drawCount = s.drawCount ∧ SameMemory s t ∧ SameControl s t ∧
      t.inPrompted = false

/-- R127: HALT writes the notice, flushes and ends the run: no step follows, and the exit code is 0. Registers,
memory and COND keep their values. -/
def Obligations.HaltWritesItsNoticeAndEndsTheRun : Prop :=
  ∀ s : State, ∃ t, exec .halt s = .next t ∧ t.run = .halted ∧ (∀ u, step t ≠ .next u) ∧
    t.run.exitCode = some 0 ∧
    t.out = s.out ++ s.params.haltNotice.map .byte ++ [.flush] ∧ LinkedRegs s t ∧ t.cond = s.cond ∧
    t.pc = s.pc ∧ SameMemory s t ∧ SameInput s t ∧ t.params = s.params ∧ SameHost s t ∧
    t.inPrompted = s.inPrompted

/-- R128: a TRAP whose vector is outside 0x20 to 0x25 faults after the link, writes nothing to the console and
changes no other register. -/
def Obligations.AnUnknownTrapVectorFaults : Prop :=
  ∀ (v : Byte) (s : State), v.toNat < 0x20 ∨ 0x25 < v.toNat →
    ∃ t, exec (.trap v) s = .next t ∧ t.run = .faulted (.unknownTrap v) ∧ LinkedRegs s t ∧
      t.cond = s.cond ∧ t.pc = s.pc ∧ t.out = s.out ∧ SameMemory s t ∧ SameInput s t ∧
      t.params = s.params ∧ SameHost s t ∧ t.inPrompted = s.inPrompted

/-- 44_reserved.md R150, R151, 60_exceptions.md R160: a reserved opcode faults with its word recorded; nothing
else changes. -/
def Obligations.AReservedOpcodeFaults : Prop :=
  (∀ w : Word, w.extractLsb' 12 4 = 0b1000 → decode w = .reserved1000 w) ∧
  (∀ w : Word, w.extractLsb' 12 4 = 0b1101 → decode w = .reserved1101 w) ∧
  ∀ (ir : Word) (s : State),
    exec (.reserved1000 ir) s = .next { s with run := .faulted (.reservedOpcode ir) } ∧
    exec (.reserved1101 ir) s = .next { s with run := .faulted (.reservedOpcode ir) }

/-- R131: no trap routine writes memory, and none writes a register but R0 (GETC, IN) and TRAP's link in R7. -/
def Obligations.NoTrapRoutineWritesMemory : Prop :=
  ∀ (i : Instr) (s t : State), i.isTrap = true → exec i s = .next t →
    t.mem = s.mem ∧ ∀ r : Reg, r ≠ .r0 → r ≠ .r7 → t.reg r = s.reg r

/-- 10_state.md R34, 20_memory.md R47: a step held on input has not happened, whichever of the block's input calls
holds: the fetch's poll, GETC's read, the poll of LD, LDR or either read of LDI, or STI's pointer read.
The state is as it was, the host's leave to proceed used up (`State.acted`: for a host that lets the block
run on, exactly the same state). IN's held step leaves its prompt in the output and is otherwise the same (R125).
The unchanged next state is the model's form of a hold (notes/assumptions/9.md, 10.md). -/
def Obligations.AHeldStepChangesAtMostAPrompt : Prop :=
  ∀ s : State, s.run = .running → s.letRun →
    (s.acted.fetch = none → step s = .next s.acted) ∧
    (s.pc ≠ s.params.kbsr →
      let i := decode (s.cell s.pc)
      let u : State := { s.acted with pc := s.pc + 1 }
      (i = .getc → s.input = [] → step s = .next s.acted) ∧
      (∀ dr off, i = .ld dr off → u.memRead (u.pcRel off) = none → step s = .next s.acted) ∧
      (∀ dr base off, i = .ldr dr base off → u.memRead (u.baseOff base off) = none →
        step s = .next s.acted) ∧
      (∀ dr off, i = .ldi dr off → u.memRead (u.pcRel off) = none → step s = .next s.acted) ∧
      (∀ dr off ea v, i = .ldi dr off → u.memRead (u.pcRel off) = some (ea, v) →
        v.memRead ea = none → step s = .next s.acted) ∧
      (∀ sr off, i = .sti sr off → u.memRead (u.pcRel off) = none → step s = .next s.acted) ∧
      (i = .inp → s.input = [] → step s = .next { s.acted with
        out := s.out ++ (if s.inPrompted then [] else s.params.inPrompt.map .byte ++ [.flush])
        inPrompted := true }))

/-- R125: the prompt of an IN that waits is written once. It appears before the byte does, further waiting adds
nothing, and when the byte comes the instruction goes on with the echo. -/
def Obligations.AWaitingInWritesItsPromptOnce : Prop :=
  ∀ (s : State) (c : Byte), s.run = .running → s.pc ≠ s.params.kbsr → decode (s.cell s.pc) = .inp →
    s.input = [] → s.inPrompted = false → s.hostEvents = [.proceed, .proceed, .deliver c, .proceed] →
    ∃ t u v w, step s = .next t ∧ step t = .next u ∧ step u = .next v ∧ step v = .next w ∧
      t.pc = s.pc ∧ t.out = s.out ++ s.params.inPrompt.map .byte ++ [.flush] ∧ t.regs = s.regs ∧
      u = { t with hostEvents := [.deliver c, .proceed] } ∧
      w.out = s.out ++ s.params.inPrompt.map .byte ++ [.flush, .byte c, .flush] ∧ w.pc = s.pc + 1 ∧
      w.inPrompted = false ∧ w.input = []

/-! ### What no instruction does (10_state.md) -/

/-- R27: COND is written by the flag-setting instructions, by the flag of DR, and by GETC and IN if
`P_TRAP_SETS_CC`, by the flag of R0. No other instruction writes it. -/
def Obligations.OnlyFlagSettersWriteCond : Prop :=
  ∀ (i : Instr) (s t : State), exec i s = .next t →
    (i.setsFlags = true → t = s.hold ∨ ∃ dr, i.destination = some dr ∧ FlagOf (t.reg dr) t.cond) ∧
    (i.setsFlags = false →
      t.cond = s.cond ∨ (s.params.trapSetsCC = true ∧ i.isTrap = true ∧ i.destination = some .r0 ∧
        FlagOf (t.reg .r0) t.cond))

/-- R28: only BR reads COND. Any other instruction, run with another COND, reaches the same state but for
COND, and where the first run wrote COND both hold the same. -/
def Obligations.OnlyBranchReadsCond : Prop :=
  ∀ (i : Instr) (c : Cond) (s t : State), (∀ n z p off, i ≠ .br n z p off) → exec i s = .next t →
    ∃ t', exec i { s with cond := c } = .next t' ∧ { t' with cond := t.cond } = t ∧
      (t'.cond = t.cond ∨ (t.cond = s.cond ∧ t'.cond = c))

/-- R20: which instruction writes which register: DR, the R7 of JSR and JSRR, the R0 of GETC and IN, and R7 by TRAP
only when `P_TRAP_LINK` is SAVE_PC. No other register changes. -/
def Obligations.RegistersAreWrittenOnlyAsListed : Prop :=
  ∀ (i : Instr) (s t : State) (r : Reg), exec i s = .next t → t.reg r ≠ s.reg r →
    i.destination = some r ∨ (r = .r7 ∧ i.isTrap = true ∧ s.params.trapLink = .savePC ∧ t.reg r = s.pc)

/-- R22: BR, JMP, JSR and JSRR write PC; every other instruction leaves it at the incremented value, or holds,
and then PC is back at the instruction and no register has changed. -/
def Obligations.PcIsWrittenOnlyByControlTransfer : Prop :=
  ∀ (i : Instr) (s t : State), exec i s = .next t → (∀ n z p off, i ≠ .br n z p off) →
    (∀ base, i ≠ .jmp base) → i ≠ .ret → (∀ off, i ≠ .jsr off) → (∀ base, i ≠ .jsrr base) →
    t.pc = s.pc ∨ (t.pc = s.pc - 1 ∧ t.regs = s.regs ∧ t.mem = s.mem ∧ t.input = s.input)

/-- 20_memory.md R40, R44: a cell changes only by a store of ST, STI or STR at its effective address, or, at the two
device addresses, by a poll: a read of LD, LDI, LDR or STI at `P_KBSR`. -/
def Obligations.MemoryChangesOnlyByStoresAndPolls : Prop :=
  ∀ (i : Instr) (s t : State) (a : Word), exec i s = .next t → t.cell a ≠ s.cell a →
    (∃ sr off, i = .st sr off ∧ a = s.pcRel off) ∨
    (∃ sr base off, i = .str sr base off ∧ a = s.baseOff base off) ∨
    (∃ sr off ea u, i = .sti sr off ∧ s.memRead (s.pcRel off) = some (ea, u) ∧ a = ea) ∨
    ((a = s.params.kbsr ∨ a = s.params.kbdr) ∧
      ((∃ dr off, i = .ld dr off ∧ s.pcRel off = s.params.kbsr) ∨
       (∃ dr base off, i = .ldr dr base off ∧ s.baseOff base off = s.params.kbsr) ∨
       (∃ dr off, i = .ldi dr off ∧ (s.pcRel off = s.params.kbsr ∨
         ∃ u, s.memRead (s.pcRel off) = some (s.params.kbsr, u))) ∨
       (∃ sr off, i = .sti sr off ∧ s.pcRel off = s.params.kbsr)))

/-- 60_exceptions.md R169, 43_trap.md R131: only the trap routines reach the console. -/
def Obligations.OnlyTrapsWriteTheConsole : Prop :=
  ∀ (i : Instr) (s t : State), i.isTrap = false → exec i s = .next t → t.out = s.out

/-! ### Reset and startup (70_reset_and_hazards.md) -/

/-- R180, R181: after reset, for every choice of the parameters, R0 to R7 are 0, PC and COND are their
parameters, every cell is 0, the output is empty and the run state is RUNNING. -/
def Obligations.ResetLeavesTheStatedValues : Prop :=
  (∀ p : Params, (∀ r : Reg, (State.resetWith p).reg r = 0) ∧ (State.resetWith p).pc = p.pcStart ∧
    (State.resetWith p).cond = p.condReset ∧ (∀ a : Word, (State.resetWith p).cell a = 0) ∧
    (State.resetWith p).out = [] ∧ (State.resetWith p).run = .running) ∧
  State.reset = State.resetWith Config.params ∧ State.reset.pc = 0x3000 ∧ State.reset.cond = .none

/-- R183: after loading an image, the cells from its origin hold its Words, as many as fit below 65,536, and
every other cell is as before. -/
def Obligations.LoadingAnImageWritesItsWords : Prop :=
  ∀ (m : Memory) (image : Image) (a : Nat), Memory.wf m → a < 65536 →
    Memory.read (loadImage m image) a =
      if image.origin.toNat ≤ a then (image.words[a - image.origin.toNat]?).getD (Memory.read m a)
      else Memory.read m a

/-- R182: an image file is its origin and its Words, each as two bytes, high byte first; a file of fewer than two
bytes or an odd number of bytes is malformed. -/
def Obligations.ImageFilesAreBigEndian : Prop :=
  (∀ image : Image, parseImage
    ((image.origin :: image.words).flatMap fun w => [w.extractLsb' 8 8, w.extractLsb' 0 8]) =
      some image) ∧
  ∀ file : List Byte, file.length < 2 ∨ file.length % 2 = 1 → parseImage file = none

/-- R183, R184, R185, R190: with no image the start fails; with one that cannot be read or is malformed, anywhere in the
list, it fails; otherwise the block starts from reset with all the images loaded in command-line order,
later ones over earlier ones, and loading sets nothing but memory. The exit codes are 2, 1, and 0 for
HALT. -/
def Obligations.StartupLoadsOrFails : Prop :=
  (∀ p : Params, boot p [] = .failed .missingArgument) ∧
  (∀ (p : Params) (before after : List (Option (List Byte))),
    boot p (before ++ none :: after) = .failed .badImage) ∧
  (∀ (p : Params) (file : List Byte) (before after : List (Option (List Byte))),
    parseImage file = none → boot p (before ++ some file :: after) = .failed .badImage) ∧
  (∀ (p : Params) (files : List (List Byte)) (images : List Image), files ≠ [] →
    files.map parseImage = images.map some →
    boot p (files.map some) = .started { State.resetWith p with mem := images.foldl loadImage [] }) ∧
  StartupError.missingArgument.exitCode = 2 ∧ StartupError.badImage.exitCode = 1 ∧
  RunState.halted.exitCode = some 0
end

