-- ==== Sys2Proof/Laws/State.lean ====
section
/-! SUPPORT. For each update of the state, each field after it; and the register file read after a write. -/

namespace Sys2Proof.Machine

/-! ### The register file -/

@[simp] theorem Regs.get_set_same (g : Regs) (r : Reg) (v : Word) : (g.set r v).get r = v := by
  cases r <;> rfl

theorem Regs.get_set_other (g : Regs) (r q : Reg) (v : Word) (h : q ≠ r) :
    (g.set r v).get q = g.get q := by
  cases r <;> cases q <;> first | rfl | exact absurd rfl h

theorem Regs.get_set (g : Regs) (r q : Reg) (v : Word) :
    (g.set r v).get q = if q = r then v else g.get q := by
  split
  · next h => subst h; simp
  · next h => exact Regs.get_set_other g r q v h

/-- Two register files that agree on every register are equal. -/
theorem Regs.ext_get {g h : Regs} (e : ∀ r, g.get r = h.get r) : g = h := by
  cases g; cases h
  simpa [Regs.get] using
    And.intro (e .r0) (And.intro (e .r1) (And.intro (e .r2) (And.intro (e .r3)
      (And.intro (e .r4) (And.intro (e .r5) (And.intro (e .r6) (e .r7)))))))


/-! ### `setReg` -/

@[simp] theorem State.setReg_regs (s : State) (r : Reg) (v : Word) : (s.setReg r v).regs = s.regs.set r v := rfl
@[simp] theorem State.setReg_pc (s : State) (r : Reg) (v : Word) : (s.setReg r v).pc = s.pc := rfl
@[simp] theorem State.setReg_cond (s : State) (r : Reg) (v : Word) : (s.setReg r v).cond = s.cond := rfl
@[simp] theorem State.setReg_mem (s : State) (r : Reg) (v : Word) : (s.setReg r v).mem = s.mem := rfl
@[simp] theorem State.setReg_out (s : State) (r : Reg) (v : Word) : (s.setReg r v).out = s.out := rfl
@[simp] theorem State.setReg_input (s : State) (r : Reg) (v : Word) : (s.setReg r v).input = s.input := rfl
@[simp] theorem State.setReg_draws (s : State) (r : Reg) (v : Word) : (s.setReg r v).draws = s.draws := rfl
@[simp] theorem State.setReg_drawCount (s : State) (r : Reg) (v : Word) : (s.setReg r v).drawCount = s.drawCount := rfl
@[simp] theorem State.setReg_inPrompted (s : State) (r : Reg) (v : Word) : (s.setReg r v).inPrompted = s.inPrompted := rfl
@[simp] theorem State.setReg_run (s : State) (r : Reg) (v : Word) : (s.setReg r v).run = s.run := rfl
@[simp] theorem State.setReg_hostEvents (s : State) (r : Reg) (v : Word) : (s.setReg r v).hostEvents = s.hostEvents := rfl
@[simp] theorem State.setReg_hostAfter (s : State) (r : Reg) (v : Word) : (s.setReg r v).hostAfter = s.hostAfter := rfl
@[simp] theorem State.setReg_params (s : State) (r : Reg) (v : Word) : (s.setReg r v).params = s.params := rfl
@[simp] theorem State.setReg_cell (s : State) (r : Reg) (v : Word) (c : Word) : (s.setReg r v).cell c = s.cell c := rfl

/-! ### `setPc` -/

@[simp] theorem State.setPc_regs (s : State) (v : Word) : (s.setPc v).regs = s.regs := rfl
@[simp] theorem State.setPc_pc (s : State) (v : Word) : (s.setPc v).pc = v := rfl
@[simp] theorem State.setPc_cond (s : State) (v : Word) : (s.setPc v).cond = s.cond := rfl
@[simp] theorem State.setPc_mem (s : State) (v : Word) : (s.setPc v).mem = s.mem := rfl
@[simp] theorem State.setPc_out (s : State) (v : Word) : (s.setPc v).out = s.out := rfl
@[simp] theorem State.setPc_input (s : State) (v : Word) : (s.setPc v).input = s.input := rfl
@[simp] theorem State.setPc_draws (s : State) (v : Word) : (s.setPc v).draws = s.draws := rfl
@[simp] theorem State.setPc_drawCount (s : State) (v : Word) : (s.setPc v).drawCount = s.drawCount := rfl
@[simp] theorem State.setPc_inPrompted (s : State) (v : Word) : (s.setPc v).inPrompted = s.inPrompted := rfl
@[simp] theorem State.setPc_run (s : State) (v : Word) : (s.setPc v).run = s.run := rfl
@[simp] theorem State.setPc_hostEvents (s : State) (v : Word) : (s.setPc v).hostEvents = s.hostEvents := rfl
@[simp] theorem State.setPc_hostAfter (s : State) (v : Word) : (s.setPc v).hostAfter = s.hostAfter := rfl
@[simp] theorem State.setPc_params (s : State) (v : Word) : (s.setPc v).params = s.params := rfl
@[simp] theorem State.setPc_reg (s : State) (v : Word) (q : Reg) : (s.setPc v).reg q = s.reg q := rfl
@[simp] theorem State.setPc_cell (s : State) (v : Word) (c : Word) : (s.setPc v).cell c = s.cell c := rfl

/-! ### `setcc` -/

@[simp] theorem State.setcc_regs (s : State) (v : Word) : (s.setcc v).regs = s.regs := rfl
@[simp] theorem State.setcc_pc (s : State) (v : Word) : (s.setcc v).pc = s.pc := rfl
@[simp] theorem State.setcc_cond (s : State) (v : Word) : (s.setcc v).cond = condOf v := rfl
@[simp] theorem State.setcc_mem (s : State) (v : Word) : (s.setcc v).mem = s.mem := rfl
@[simp] theorem State.setcc_out (s : State) (v : Word) : (s.setcc v).out = s.out := rfl
@[simp] theorem State.setcc_input (s : State) (v : Word) : (s.setcc v).input = s.input := rfl
@[simp] theorem State.setcc_draws (s : State) (v : Word) : (s.setcc v).draws = s.draws := rfl
@[simp] theorem State.setcc_drawCount (s : State) (v : Word) : (s.setcc v).drawCount = s.drawCount := rfl
@[simp] theorem State.setcc_inPrompted (s : State) (v : Word) : (s.setcc v).inPrompted = s.inPrompted := rfl
@[simp] theorem State.setcc_run (s : State) (v : Word) : (s.setcc v).run = s.run := rfl
@[simp] theorem State.setcc_hostEvents (s : State) (v : Word) : (s.setcc v).hostEvents = s.hostEvents := rfl
@[simp] theorem State.setcc_hostAfter (s : State) (v : Word) : (s.setcc v).hostAfter = s.hostAfter := rfl
@[simp] theorem State.setcc_params (s : State) (v : Word) : (s.setcc v).params = s.params := rfl
@[simp] theorem State.setcc_reg (s : State) (v : Word) (q : Reg) : (s.setcc v).reg q = s.reg q := rfl
@[simp] theorem State.setcc_cell (s : State) (v : Word) (c : Word) : (s.setcc v).cell c = s.cell c := rfl

/-! ### `memWrite` -/

@[simp] theorem State.memWrite_regs (s : State) (a v : Word) : (s.memWrite a v).regs = s.regs := rfl
@[simp] theorem State.memWrite_pc (s : State) (a v : Word) : (s.memWrite a v).pc = s.pc := rfl
@[simp] theorem State.memWrite_cond (s : State) (a v : Word) : (s.memWrite a v).cond = s.cond := rfl
@[simp] theorem State.memWrite_mem (s : State) (a v : Word) : (s.memWrite a v).mem = Memory.write s.mem a.toNat v := rfl
@[simp] theorem State.memWrite_out (s : State) (a v : Word) : (s.memWrite a v).out = s.out := rfl
@[simp] theorem State.memWrite_input (s : State) (a v : Word) : (s.memWrite a v).input = s.input := rfl
@[simp] theorem State.memWrite_draws (s : State) (a v : Word) : (s.memWrite a v).draws = s.draws := rfl
@[simp] theorem State.memWrite_drawCount (s : State) (a v : Word) : (s.memWrite a v).drawCount = s.drawCount := rfl
@[simp] theorem State.memWrite_inPrompted (s : State) (a v : Word) : (s.memWrite a v).inPrompted = s.inPrompted := rfl
@[simp] theorem State.memWrite_run (s : State) (a v : Word) : (s.memWrite a v).run = s.run := rfl
@[simp] theorem State.memWrite_hostEvents (s : State) (a v : Word) : (s.memWrite a v).hostEvents = s.hostEvents := rfl
@[simp] theorem State.memWrite_hostAfter (s : State) (a v : Word) : (s.memWrite a v).hostAfter = s.hostAfter := rfl
@[simp] theorem State.memWrite_params (s : State) (a v : Word) : (s.memWrite a v).params = s.params := rfl
@[simp] theorem State.memWrite_reg (s : State) (a v : Word) (q : Reg) : (s.memWrite a v).reg q = s.reg q := rfl

/-! ### `drawn` -/

@[simp] theorem State.drawn_regs (s : State) : (s.drawn).regs = s.regs := rfl
@[simp] theorem State.drawn_pc (s : State) : (s.drawn).pc = s.pc := rfl
@[simp] theorem State.drawn_cond (s : State) : (s.drawn).cond = s.cond := rfl
@[simp] theorem State.drawn_mem (s : State) : (s.drawn).mem = s.mem := rfl
@[simp] theorem State.drawn_out (s : State) : (s.drawn).out = s.out := rfl
@[simp] theorem State.drawn_input (s : State) : (s.drawn).input = s.input := rfl
@[simp] theorem State.drawn_draws (s : State) : (s.drawn).draws = s.draws.tail := rfl
@[simp] theorem State.drawn_inPrompted (s : State) : (s.drawn).inPrompted = s.inPrompted := rfl
@[simp] theorem State.drawn_run (s : State) : (s.drawn).run = s.run := rfl
@[simp] theorem State.drawn_hostEvents (s : State) : (s.drawn).hostEvents = s.hostEvents := rfl
@[simp] theorem State.drawn_hostAfter (s : State) : (s.drawn).hostAfter = s.hostAfter := rfl
@[simp] theorem State.drawn_params (s : State) : (s.drawn).params = s.params := rfl
@[simp] theorem State.drawn_reg (s : State) (q : Reg) : (s.drawn).reg q = s.reg q := rfl
@[simp] theorem State.drawn_cell (s : State) (c : Word) : (s.drawn).cell c = s.cell c := rfl

/-! ### `withInput` -/

@[simp] theorem State.withInput_regs (s : State) (bs : List Byte) : (s.withInput bs).regs = s.regs := rfl
@[simp] theorem State.withInput_pc (s : State) (bs : List Byte) : (s.withInput bs).pc = s.pc := rfl
@[simp] theorem State.withInput_cond (s : State) (bs : List Byte) : (s.withInput bs).cond = s.cond := rfl
@[simp] theorem State.withInput_mem (s : State) (bs : List Byte) : (s.withInput bs).mem = s.mem := rfl
@[simp] theorem State.withInput_out (s : State) (bs : List Byte) : (s.withInput bs).out = s.out := rfl
@[simp] theorem State.withInput_input (s : State) (bs : List Byte) : (s.withInput bs).input = bs := rfl
@[simp] theorem State.withInput_draws (s : State) (bs : List Byte) : (s.withInput bs).draws = s.draws := rfl
@[simp] theorem State.withInput_drawCount (s : State) (bs : List Byte) : (s.withInput bs).drawCount = s.drawCount := rfl
@[simp] theorem State.withInput_inPrompted (s : State) (bs : List Byte) : (s.withInput bs).inPrompted = s.inPrompted := rfl
@[simp] theorem State.withInput_run (s : State) (bs : List Byte) : (s.withInput bs).run = s.run := rfl
@[simp] theorem State.withInput_hostEvents (s : State) (bs : List Byte) : (s.withInput bs).hostEvents = s.hostEvents := rfl
@[simp] theorem State.withInput_hostAfter (s : State) (bs : List Byte) : (s.withInput bs).hostAfter = s.hostAfter := rfl
@[simp] theorem State.withInput_params (s : State) (bs : List Byte) : (s.withInput bs).params = s.params := rfl
@[simp] theorem State.withInput_reg (s : State) (bs : List Byte) (q : Reg) : (s.withInput bs).reg q = s.reg q := rfl
@[simp] theorem State.withInput_cell (s : State) (bs : List Byte) (c : Word) : (s.withInput bs).cell c = s.cell c := rfl

/-! ### `emit` -/

@[simp] theorem State.emit_regs (s : State) (bs : List Byte) : (s.emit bs).regs = s.regs := rfl
@[simp] theorem State.emit_pc (s : State) (bs : List Byte) : (s.emit bs).pc = s.pc := rfl
@[simp] theorem State.emit_cond (s : State) (bs : List Byte) : (s.emit bs).cond = s.cond := rfl
@[simp] theorem State.emit_mem (s : State) (bs : List Byte) : (s.emit bs).mem = s.mem := rfl
@[simp] theorem State.emit_out (s : State) (bs : List Byte) : (s.emit bs).out = s.out ++ bs.map .byte := rfl
@[simp] theorem State.emit_input (s : State) (bs : List Byte) : (s.emit bs).input = s.input := rfl
@[simp] theorem State.emit_draws (s : State) (bs : List Byte) : (s.emit bs).draws = s.draws := rfl
@[simp] theorem State.emit_drawCount (s : State) (bs : List Byte) : (s.emit bs).drawCount = s.drawCount := rfl
@[simp] theorem State.emit_inPrompted (s : State) (bs : List Byte) : (s.emit bs).inPrompted = s.inPrompted := rfl
@[simp] theorem State.emit_run (s : State) (bs : List Byte) : (s.emit bs).run = s.run := rfl
@[simp] theorem State.emit_hostEvents (s : State) (bs : List Byte) : (s.emit bs).hostEvents = s.hostEvents := rfl
@[simp] theorem State.emit_hostAfter (s : State) (bs : List Byte) : (s.emit bs).hostAfter = s.hostAfter := rfl
@[simp] theorem State.emit_params (s : State) (bs : List Byte) : (s.emit bs).params = s.params := rfl
@[simp] theorem State.emit_reg (s : State) (bs : List Byte) (q : Reg) : (s.emit bs).reg q = s.reg q := rfl
@[simp] theorem State.emit_cell (s : State) (bs : List Byte) (c : Word) : (s.emit bs).cell c = s.cell c := rfl

/-! ### `emitFlush` -/

@[simp] theorem State.emitFlush_regs (s : State) : (s.emitFlush).regs = s.regs := rfl
@[simp] theorem State.emitFlush_pc (s : State) : (s.emitFlush).pc = s.pc := rfl
@[simp] theorem State.emitFlush_cond (s : State) : (s.emitFlush).cond = s.cond := rfl
@[simp] theorem State.emitFlush_mem (s : State) : (s.emitFlush).mem = s.mem := rfl
@[simp] theorem State.emitFlush_out (s : State) : (s.emitFlush).out = s.out ++ [.flush] := rfl
@[simp] theorem State.emitFlush_input (s : State) : (s.emitFlush).input = s.input := rfl
@[simp] theorem State.emitFlush_draws (s : State) : (s.emitFlush).draws = s.draws := rfl
@[simp] theorem State.emitFlush_drawCount (s : State) : (s.emitFlush).drawCount = s.drawCount := rfl
@[simp] theorem State.emitFlush_inPrompted (s : State) : (s.emitFlush).inPrompted = s.inPrompted := rfl
@[simp] theorem State.emitFlush_run (s : State) : (s.emitFlush).run = s.run := rfl
@[simp] theorem State.emitFlush_hostEvents (s : State) : (s.emitFlush).hostEvents = s.hostEvents := rfl
@[simp] theorem State.emitFlush_hostAfter (s : State) : (s.emitFlush).hostAfter = s.hostAfter := rfl
@[simp] theorem State.emitFlush_params (s : State) : (s.emitFlush).params = s.params := rfl
@[simp] theorem State.emitFlush_reg (s : State) (q : Reg) : (s.emitFlush).reg q = s.reg q := rfl
@[simp] theorem State.emitFlush_cell (s : State) (c : Word) : (s.emitFlush).cell c = s.cell c := rfl

/-! ### `raiseFault` -/

@[simp] theorem State.raiseFault_regs (s : State) (e : StopReason) : (s.raiseFault e).regs = s.regs := rfl
@[simp] theorem State.raiseFault_pc (s : State) (e : StopReason) : (s.raiseFault e).pc = s.pc := rfl
@[simp] theorem State.raiseFault_cond (s : State) (e : StopReason) : (s.raiseFault e).cond = s.cond := rfl
@[simp] theorem State.raiseFault_mem (s : State) (e : StopReason) : (s.raiseFault e).mem = s.mem := rfl
@[simp] theorem State.raiseFault_out (s : State) (e : StopReason) : (s.raiseFault e).out = s.out := rfl
@[simp] theorem State.raiseFault_input (s : State) (e : StopReason) : (s.raiseFault e).input = s.input := rfl
@[simp] theorem State.raiseFault_draws (s : State) (e : StopReason) : (s.raiseFault e).draws = s.draws := rfl
@[simp] theorem State.raiseFault_drawCount (s : State) (e : StopReason) : (s.raiseFault e).drawCount = s.drawCount := rfl
@[simp] theorem State.raiseFault_inPrompted (s : State) (e : StopReason) : (s.raiseFault e).inPrompted = s.inPrompted := rfl
@[simp] theorem State.raiseFault_run (s : State) (e : StopReason) : (s.raiseFault e).run = .faulted e := rfl
@[simp] theorem State.raiseFault_hostEvents (s : State) (e : StopReason) : (s.raiseFault e).hostEvents = s.hostEvents := rfl
@[simp] theorem State.raiseFault_hostAfter (s : State) (e : StopReason) : (s.raiseFault e).hostAfter = s.hostAfter := rfl
@[simp] theorem State.raiseFault_params (s : State) (e : StopReason) : (s.raiseFault e).params = s.params := rfl
@[simp] theorem State.raiseFault_reg (s : State) (e : StopReason) (q : Reg) : (s.raiseFault e).reg q = s.reg q := rfl
@[simp] theorem State.raiseFault_cell (s : State) (e : StopReason) (c : Word) : (s.raiseFault e).cell c = s.cell c := rfl

/-! ### `hold` -/

@[simp] theorem State.hold_regs (s : State) : (s.hold).regs = s.regs := rfl
@[simp] theorem State.hold_pc (s : State) : (s.hold).pc = s.pc - 1 := rfl
@[simp] theorem State.hold_cond (s : State) : (s.hold).cond = s.cond := rfl
@[simp] theorem State.hold_mem (s : State) : (s.hold).mem = s.mem := rfl
@[simp] theorem State.hold_out (s : State) : (s.hold).out = s.out := rfl
@[simp] theorem State.hold_input (s : State) : (s.hold).input = s.input := rfl
@[simp] theorem State.hold_draws (s : State) : (s.hold).draws = s.draws := rfl
@[simp] theorem State.hold_drawCount (s : State) : (s.hold).drawCount = s.drawCount := rfl
@[simp] theorem State.hold_inPrompted (s : State) : (s.hold).inPrompted = s.inPrompted := rfl
@[simp] theorem State.hold_run (s : State) : (s.hold).run = s.run := rfl
@[simp] theorem State.hold_hostEvents (s : State) : (s.hold).hostEvents = s.hostEvents := rfl
@[simp] theorem State.hold_hostAfter (s : State) : (s.hold).hostAfter = s.hostAfter := rfl
@[simp] theorem State.hold_params (s : State) : (s.hold).params = s.params := rfl
@[simp] theorem State.hold_reg (s : State) (q : Reg) : (s.hold).reg q = s.reg q := rfl
@[simp] theorem State.hold_cell (s : State) (c : Word) : (s.hold).cell c = s.cell c := rfl

/-! ### `trapLink` -/

@[simp] theorem State.trapLink_pc (s : State) : (s.trapLink).pc = s.pc := rfl
@[simp] theorem State.trapLink_cond (s : State) : (s.trapLink).cond = s.cond := rfl
@[simp] theorem State.trapLink_mem (s : State) : (s.trapLink).mem = s.mem := rfl
@[simp] theorem State.trapLink_out (s : State) : (s.trapLink).out = s.out := rfl
@[simp] theorem State.trapLink_input (s : State) : (s.trapLink).input = s.input := rfl
@[simp] theorem State.trapLink_draws (s : State) : (s.trapLink).draws = s.draws := rfl
@[simp] theorem State.trapLink_drawCount (s : State) : (s.trapLink).drawCount = s.drawCount := rfl
@[simp] theorem State.trapLink_inPrompted (s : State) : (s.trapLink).inPrompted = s.inPrompted := rfl
@[simp] theorem State.trapLink_run (s : State) : (s.trapLink).run = s.run := rfl
@[simp] theorem State.trapLink_hostEvents (s : State) : (s.trapLink).hostEvents = s.hostEvents := rfl
@[simp] theorem State.trapLink_hostAfter (s : State) : (s.trapLink).hostAfter = s.hostAfter := rfl
@[simp] theorem State.trapLink_params (s : State) : (s.trapLink).params = s.params := rfl
@[simp] theorem State.trapLink_cell (s : State) (c : Word) : (s.trapLink).cell c = s.cell c := rfl

/-! ### `trapSetcc` -/

@[simp] theorem State.trapSetcc_regs (s : State) : (s.trapSetcc).regs = s.regs := rfl
@[simp] theorem State.trapSetcc_pc (s : State) : (s.trapSetcc).pc = s.pc := rfl
@[simp] theorem State.trapSetcc_cond (s : State) : (s.trapSetcc).cond = (if s.params.trapSetsCC then condOf (s.reg .r0) else s.cond) := rfl
@[simp] theorem State.trapSetcc_mem (s : State) : (s.trapSetcc).mem = s.mem := rfl
@[simp] theorem State.trapSetcc_out (s : State) : (s.trapSetcc).out = s.out := rfl
@[simp] theorem State.trapSetcc_input (s : State) : (s.trapSetcc).input = s.input := rfl
@[simp] theorem State.trapSetcc_draws (s : State) : (s.trapSetcc).draws = s.draws := rfl
@[simp] theorem State.trapSetcc_drawCount (s : State) : (s.trapSetcc).drawCount = s.drawCount := rfl
@[simp] theorem State.trapSetcc_inPrompted (s : State) : (s.trapSetcc).inPrompted = s.inPrompted := rfl
@[simp] theorem State.trapSetcc_run (s : State) : (s.trapSetcc).run = s.run := rfl
@[simp] theorem State.trapSetcc_hostEvents (s : State) : (s.trapSetcc).hostEvents = s.hostEvents := rfl
@[simp] theorem State.trapSetcc_hostAfter (s : State) : (s.trapSetcc).hostAfter = s.hostAfter := rfl
@[simp] theorem State.trapSetcc_params (s : State) : (s.trapSetcc).params = s.params := rfl
@[simp] theorem State.trapSetcc_reg (s : State) (q : Reg) : (s.trapSetcc).reg q = s.reg q := rfl
@[simp] theorem State.trapSetcc_cell (s : State) (c : Word) : (s.trapSetcc).cell c = s.cell c := rfl

/-! ### `promptDone` -/

@[simp] theorem State.promptDone_regs (s : State) : (s.promptDone).regs = s.regs := rfl
@[simp] theorem State.promptDone_pc (s : State) : (s.promptDone).pc = s.pc := rfl
@[simp] theorem State.promptDone_cond (s : State) : (s.promptDone).cond = s.cond := rfl
@[simp] theorem State.promptDone_mem (s : State) : (s.promptDone).mem = s.mem := rfl
@[simp] theorem State.promptDone_out (s : State) : (s.promptDone).out = s.out := rfl
@[simp] theorem State.promptDone_input (s : State) : (s.promptDone).input = s.input := rfl
@[simp] theorem State.promptDone_draws (s : State) : (s.promptDone).draws = s.draws := rfl
@[simp] theorem State.promptDone_drawCount (s : State) : (s.promptDone).drawCount = s.drawCount := rfl
@[simp] theorem State.promptDone_inPrompted (s : State) : (s.promptDone).inPrompted = false := rfl
@[simp] theorem State.promptDone_run (s : State) : (s.promptDone).run = s.run := rfl
@[simp] theorem State.promptDone_hostEvents (s : State) : (s.promptDone).hostEvents = s.hostEvents := rfl
@[simp] theorem State.promptDone_hostAfter (s : State) : (s.promptDone).hostAfter = s.hostAfter := rfl
@[simp] theorem State.promptDone_params (s : State) : (s.promptDone).params = s.params := rfl
@[simp] theorem State.promptDone_reg (s : State) (q : Reg) : (s.promptDone).reg q = s.reg q := rfl
@[simp] theorem State.promptDone_cell (s : State) (c : Word) : (s.promptDone).cell c = s.cell c := rfl

/-! ### `hostAbort` -/

@[simp] theorem State.hostAbort_regs (s : State) : (s.hostAbort).regs = s.regs := rfl
@[simp] theorem State.hostAbort_pc (s : State) : (s.hostAbort).pc = s.pc := rfl
@[simp] theorem State.hostAbort_cond (s : State) : (s.hostAbort).cond = s.cond := rfl
@[simp] theorem State.hostAbort_mem (s : State) : (s.hostAbort).mem = s.mem := rfl
@[simp] theorem State.hostAbort_out (s : State) : (s.hostAbort).out = s.out := rfl
@[simp] theorem State.hostAbort_input (s : State) : (s.hostAbort).input = s.input := rfl
@[simp] theorem State.hostAbort_draws (s : State) : (s.hostAbort).draws = s.draws := rfl
@[simp] theorem State.hostAbort_drawCount (s : State) : (s.hostAbort).drawCount = s.drawCount := rfl
@[simp] theorem State.hostAbort_inPrompted (s : State) : (s.hostAbort).inPrompted = s.inPrompted := rfl
@[simp] theorem State.hostAbort_run (s : State) : (s.hostAbort).run = .aborted := rfl
@[simp] theorem State.hostAbort_hostEvents (s : State) : (s.hostAbort).hostEvents = s.hostEvents := rfl
@[simp] theorem State.hostAbort_hostAfter (s : State) : (s.hostAbort).hostAfter = s.hostAfter := rfl
@[simp] theorem State.hostAbort_params (s : State) : (s.hostAbort).params = s.params := rfl
@[simp] theorem State.hostAbort_reg (s : State) (q : Reg) : (s.hostAbort).reg q = s.reg q := rfl
@[simp] theorem State.hostAbort_cell (s : State) (c : Word) : (s.hostAbort).cell c = s.cell c := rfl

/-! ### `hostDeliver` -/

@[simp] theorem State.hostDeliver_regs (s : State) (b : Byte) : (s.hostDeliver b).regs = s.regs := rfl
@[simp] theorem State.hostDeliver_pc (s : State) (b : Byte) : (s.hostDeliver b).pc = s.pc := rfl
@[simp] theorem State.hostDeliver_cond (s : State) (b : Byte) : (s.hostDeliver b).cond = s.cond := rfl
@[simp] theorem State.hostDeliver_mem (s : State) (b : Byte) : (s.hostDeliver b).mem = s.mem := rfl
@[simp] theorem State.hostDeliver_out (s : State) (b : Byte) : (s.hostDeliver b).out = s.out := rfl
@[simp] theorem State.hostDeliver_input (s : State) (b : Byte) : (s.hostDeliver b).input = s.input ++ [b] := rfl
@[simp] theorem State.hostDeliver_draws (s : State) (b : Byte) : (s.hostDeliver b).draws = s.draws := rfl
@[simp] theorem State.hostDeliver_drawCount (s : State) (b : Byte) : (s.hostDeliver b).drawCount = s.drawCount := rfl
@[simp] theorem State.hostDeliver_inPrompted (s : State) (b : Byte) : (s.hostDeliver b).inPrompted = s.inPrompted := rfl
@[simp] theorem State.hostDeliver_run (s : State) (b : Byte) : (s.hostDeliver b).run = s.run := rfl
@[simp] theorem State.hostDeliver_hostEvents (s : State) (b : Byte) : (s.hostDeliver b).hostEvents = s.hostEvents := rfl
@[simp] theorem State.hostDeliver_hostAfter (s : State) (b : Byte) : (s.hostDeliver b).hostAfter = s.hostAfter := rfl
@[simp] theorem State.hostDeliver_params (s : State) (b : Byte) : (s.hostDeliver b).params = s.params := rfl
@[simp] theorem State.hostDeliver_reg (s : State) (b : Byte) (q : Reg) : (s.hostDeliver b).reg q = s.reg q := rfl
@[simp] theorem State.hostDeliver_cell (s : State) (b : Byte) (c : Word) : (s.hostDeliver b).cell c = s.cell c := rfl

/-! ### `setRegFlag` -/

@[simp] theorem State.setRegFlag_regs (s : State) (r : Reg) (v : Word) : (s.setRegFlag r v).regs = s.regs.set r v := rfl
@[simp] theorem State.setRegFlag_pc (s : State) (r : Reg) (v : Word) : (s.setRegFlag r v).pc = s.pc := rfl
@[simp] theorem State.setRegFlag_mem (s : State) (r : Reg) (v : Word) : (s.setRegFlag r v).mem = s.mem := rfl
@[simp] theorem State.setRegFlag_out (s : State) (r : Reg) (v : Word) : (s.setRegFlag r v).out = s.out := rfl
@[simp] theorem State.setRegFlag_input (s : State) (r : Reg) (v : Word) : (s.setRegFlag r v).input = s.input := rfl
@[simp] theorem State.setRegFlag_draws (s : State) (r : Reg) (v : Word) : (s.setRegFlag r v).draws = s.draws := rfl
@[simp] theorem State.setRegFlag_drawCount (s : State) (r : Reg) (v : Word) : (s.setRegFlag r v).drawCount = s.drawCount := rfl
@[simp] theorem State.setRegFlag_inPrompted (s : State) (r : Reg) (v : Word) : (s.setRegFlag r v).inPrompted = s.inPrompted := rfl
@[simp] theorem State.setRegFlag_run (s : State) (r : Reg) (v : Word) : (s.setRegFlag r v).run = s.run := rfl
@[simp] theorem State.setRegFlag_hostEvents (s : State) (r : Reg) (v : Word) : (s.setRegFlag r v).hostEvents = s.hostEvents := rfl
@[simp] theorem State.setRegFlag_hostAfter (s : State) (r : Reg) (v : Word) : (s.setRegFlag r v).hostAfter = s.hostAfter := rfl
@[simp] theorem State.setRegFlag_params (s : State) (r : Reg) (v : Word) : (s.setRegFlag r v).params = s.params := rfl
@[simp] theorem State.setRegFlag_cell (s : State) (r : Reg) (v : Word) (c : Word) : (s.setRegFlag r v).cell c = s.cell c := rfl

/-! ### `link` -/

@[simp] theorem State.link_regs (s : State) : (s.link).regs = s.regs.set .r7 s.pc := rfl
@[simp] theorem State.link_pc (s : State) : (s.link).pc = s.pc := rfl
@[simp] theorem State.link_cond (s : State) : (s.link).cond = s.cond := rfl
@[simp] theorem State.link_mem (s : State) : (s.link).mem = s.mem := rfl
@[simp] theorem State.link_out (s : State) : (s.link).out = s.out := rfl
@[simp] theorem State.link_input (s : State) : (s.link).input = s.input := rfl
@[simp] theorem State.link_draws (s : State) : (s.link).draws = s.draws := rfl
@[simp] theorem State.link_drawCount (s : State) : (s.link).drawCount = s.drawCount := rfl
@[simp] theorem State.link_inPrompted (s : State) : (s.link).inPrompted = s.inPrompted := rfl
@[simp] theorem State.link_run (s : State) : (s.link).run = s.run := rfl
@[simp] theorem State.link_hostEvents (s : State) : (s.link).hostEvents = s.hostEvents := rfl
@[simp] theorem State.link_hostAfter (s : State) : (s.link).hostAfter = s.hostAfter := rfl
@[simp] theorem State.link_params (s : State) : (s.link).params = s.params := rfl
@[simp] theorem State.link_cell (s : State) (c : Word) : (s.link).cell c = s.cell c := rfl

/-! ### `storeTo` -/

@[simp] theorem State.storeTo_regs (s : State) (r : Reg) (a : Word) : (s.storeTo r a).regs = s.regs := rfl
@[simp] theorem State.storeTo_pc (s : State) (r : Reg) (a : Word) : (s.storeTo r a).pc = s.pc := rfl
@[simp] theorem State.storeTo_cond (s : State) (r : Reg) (a : Word) : (s.storeTo r a).cond = s.cond := rfl
@[simp] theorem State.storeTo_mem (s : State) (r : Reg) (a : Word) : (s.storeTo r a).mem = Memory.write s.mem a.toNat (s.reg r) := rfl
@[simp] theorem State.storeTo_out (s : State) (r : Reg) (a : Word) : (s.storeTo r a).out = s.out := rfl
@[simp] theorem State.storeTo_input (s : State) (r : Reg) (a : Word) : (s.storeTo r a).input = s.input := rfl
@[simp] theorem State.storeTo_draws (s : State) (r : Reg) (a : Word) : (s.storeTo r a).draws = s.draws := rfl
@[simp] theorem State.storeTo_drawCount (s : State) (r : Reg) (a : Word) : (s.storeTo r a).drawCount = s.drawCount := rfl
@[simp] theorem State.storeTo_inPrompted (s : State) (r : Reg) (a : Word) : (s.storeTo r a).inPrompted = s.inPrompted := rfl
@[simp] theorem State.storeTo_run (s : State) (r : Reg) (a : Word) : (s.storeTo r a).run = s.run := rfl
@[simp] theorem State.storeTo_hostEvents (s : State) (r : Reg) (a : Word) : (s.storeTo r a).hostEvents = s.hostEvents := rfl
@[simp] theorem State.storeTo_hostAfter (s : State) (r : Reg) (a : Word) : (s.storeTo r a).hostAfter = s.hostAfter := rfl
@[simp] theorem State.storeTo_params (s : State) (r : Reg) (a : Word) : (s.storeTo r a).params = s.params := rfl
@[simp] theorem State.storeTo_reg (s : State) (r : Reg) (a : Word) (q : Reg) : (s.storeTo r a).reg q = s.reg q := rfl

/-! ### `prompted` -/

@[simp] theorem State.prompted_regs (s : State) : (s.prompted).regs = s.regs := rfl
@[simp] theorem State.prompted_pc (s : State) : (s.prompted).pc = s.pc := rfl
@[simp] theorem State.prompted_cond (s : State) : (s.prompted).cond = s.cond := rfl
@[simp] theorem State.prompted_mem (s : State) : (s.prompted).mem = s.mem := rfl
@[simp] theorem State.prompted_out (s : State) : (s.prompted).out = (if s.inPrompted then s.out else s.out ++ s.params.inPrompt.map .byte ++ [.flush]) := rfl
@[simp] theorem State.prompted_input (s : State) : (s.prompted).input = s.input := rfl
@[simp] theorem State.prompted_draws (s : State) : (s.prompted).draws = s.draws := rfl
@[simp] theorem State.prompted_drawCount (s : State) : (s.prompted).drawCount = s.drawCount := rfl
@[simp] theorem State.prompted_inPrompted (s : State) : (s.prompted).inPrompted = s.inPrompted := rfl
@[simp] theorem State.prompted_run (s : State) : (s.prompted).run = s.run := rfl
@[simp] theorem State.prompted_hostEvents (s : State) : (s.prompted).hostEvents = s.hostEvents := rfl
@[simp] theorem State.prompted_hostAfter (s : State) : (s.prompted).hostAfter = s.hostAfter := rfl
@[simp] theorem State.prompted_params (s : State) : (s.prompted).params = s.params := rfl
@[simp] theorem State.prompted_reg (s : State) (q : Reg) : (s.prompted).reg q = s.reg q := rfl
@[simp] theorem State.prompted_cell (s : State) (c : Word) : (s.prompted).cell c = s.cell c := rfl

/-! ### `holdIn` -/

@[simp] theorem State.holdIn_regs (s : State) : (s.holdIn).regs = s.regs := rfl
@[simp] theorem State.holdIn_pc (s : State) : (s.holdIn).pc = s.pc - 1 := rfl
@[simp] theorem State.holdIn_cond (s : State) : (s.holdIn).cond = s.cond := rfl
@[simp] theorem State.holdIn_mem (s : State) : (s.holdIn).mem = s.mem := rfl
@[simp] theorem State.holdIn_out (s : State) : (s.holdIn).out = s.prompted.out := rfl
@[simp] theorem State.holdIn_input (s : State) : (s.holdIn).input = s.input := rfl
@[simp] theorem State.holdIn_draws (s : State) : (s.holdIn).draws = s.draws := rfl
@[simp] theorem State.holdIn_drawCount (s : State) : (s.holdIn).drawCount = s.drawCount := rfl
@[simp] theorem State.holdIn_inPrompted (s : State) : (s.holdIn).inPrompted = true := rfl
@[simp] theorem State.holdIn_run (s : State) : (s.holdIn).run = s.run := rfl
@[simp] theorem State.holdIn_hostEvents (s : State) : (s.holdIn).hostEvents = s.hostEvents := rfl
@[simp] theorem State.holdIn_hostAfter (s : State) : (s.holdIn).hostAfter = s.hostAfter := rfl
@[simp] theorem State.holdIn_params (s : State) : (s.holdIn).params = s.params := rfl
@[simp] theorem State.holdIn_reg (s : State) (q : Reg) : (s.holdIn).reg q = s.reg q := rfl
@[simp] theorem State.holdIn_cell (s : State) (c : Word) : (s.holdIn).cell c = s.cell c := rfl

/-! ### `runOut` -/

@[simp] theorem State.runOut_regs (s : State) : (s.runOut).regs = s.regs := rfl
@[simp] theorem State.runOut_pc (s : State) : (s.runOut).pc = s.pc := rfl
@[simp] theorem State.runOut_cond (s : State) : (s.runOut).cond = s.cond := rfl
@[simp] theorem State.runOut_mem (s : State) : (s.runOut).mem = s.mem := rfl
@[simp] theorem State.runOut_out (s : State) : (s.runOut).out = s.out ++ [.byte (lowByte (s.reg .r0)), .flush] := by
  simp [State.runOut, State.emit, State.emitFlush]
@[simp] theorem State.runOut_input (s : State) : (s.runOut).input = s.input := rfl
@[simp] theorem State.runOut_draws (s : State) : (s.runOut).draws = s.draws := rfl
@[simp] theorem State.runOut_drawCount (s : State) : (s.runOut).drawCount = s.drawCount := rfl
@[simp] theorem State.runOut_inPrompted (s : State) : (s.runOut).inPrompted = s.inPrompted := rfl
@[simp] theorem State.runOut_run (s : State) : (s.runOut).run = s.run := rfl
@[simp] theorem State.runOut_hostEvents (s : State) : (s.runOut).hostEvents = s.hostEvents := rfl
@[simp] theorem State.runOut_hostAfter (s : State) : (s.runOut).hostAfter = s.hostAfter := rfl
@[simp] theorem State.runOut_params (s : State) : (s.runOut).params = s.params := rfl
@[simp] theorem State.runOut_reg (s : State) (q : Reg) : (s.runOut).reg q = s.reg q := rfl
@[simp] theorem State.runOut_cell (s : State) (c : Word) : (s.runOut).cell c = s.cell c := rfl

/-! ### `runHalt` -/

@[simp] theorem State.runHalt_regs (s : State) : (s.runHalt).regs = s.regs := rfl
@[simp] theorem State.runHalt_pc (s : State) : (s.runHalt).pc = s.pc := rfl
@[simp] theorem State.runHalt_cond (s : State) : (s.runHalt).cond = s.cond := rfl
@[simp] theorem State.runHalt_mem (s : State) : (s.runHalt).mem = s.mem := rfl
@[simp] theorem State.runHalt_out (s : State) : (s.runHalt).out = s.out ++ s.params.haltNotice.map .byte ++ [.flush] := by
  rfl
@[simp] theorem State.runHalt_input (s : State) : (s.runHalt).input = s.input := rfl
@[simp] theorem State.runHalt_draws (s : State) : (s.runHalt).draws = s.draws := rfl
@[simp] theorem State.runHalt_drawCount (s : State) : (s.runHalt).drawCount = s.drawCount := rfl
@[simp] theorem State.runHalt_inPrompted (s : State) : (s.runHalt).inPrompted = s.inPrompted := rfl
@[simp] theorem State.runHalt_run (s : State) : (s.runHalt).run = .halted := rfl
@[simp] theorem State.runHalt_hostEvents (s : State) : (s.runHalt).hostEvents = s.hostEvents := rfl
@[simp] theorem State.runHalt_hostAfter (s : State) : (s.runHalt).hostAfter = s.hostAfter := rfl
@[simp] theorem State.runHalt_params (s : State) : (s.runHalt).params = s.params := rfl
@[simp] theorem State.runHalt_reg (s : State) (q : Reg) : (s.runHalt).reg q = s.reg q := rfl
@[simp] theorem State.runHalt_cell (s : State) (c : Word) : (s.runHalt).cell c = s.cell c := rfl

/-! ### `acted` -/

@[simp] theorem State.acted_regs (s : State) : (s.acted).regs = s.regs := rfl
@[simp] theorem State.acted_pc (s : State) : (s.acted).pc = s.pc := rfl
@[simp] theorem State.acted_cond (s : State) : (s.acted).cond = s.cond := rfl
@[simp] theorem State.acted_mem (s : State) : (s.acted).mem = s.mem := rfl
@[simp] theorem State.acted_out (s : State) : (s.acted).out = s.out := rfl
@[simp] theorem State.acted_input (s : State) : (s.acted).input = s.input := rfl
@[simp] theorem State.acted_draws (s : State) : (s.acted).draws = s.draws := rfl
@[simp] theorem State.acted_drawCount (s : State) : (s.acted).drawCount = s.drawCount := rfl
@[simp] theorem State.acted_inPrompted (s : State) : (s.acted).inPrompted = s.inPrompted := rfl
@[simp] theorem State.acted_run (s : State) : (s.acted).run = s.run := rfl
@[simp] theorem State.acted_params (s : State) : (s.acted).params = s.params := rfl
@[simp] theorem State.acted_hostEvents (s : State) : (s.acted).hostEvents = s.hostEvents.tail := rfl
@[simp] theorem State.acted_reg (s : State) (q : Reg) : (s.acted).reg q = s.reg q := rfl
@[simp] theorem State.acted_cell (s : State) (c : Word) : (s.acted).cell c = s.cell c := rfl

/-! ### Registers after the updates that write one -/

@[simp] theorem State.setReg_reg_same (s : State) (r : Reg) (v : Word) : (s.setReg r v).reg r = v :=
  Regs.get_set_same s.regs r v

theorem State.setReg_reg (s : State) (r q : Reg) (v : Word) :
    (s.setReg r v).reg q = if q = r then v else s.reg q := Regs.get_set s.regs r q v

theorem State.setRegFlag_reg (s : State) (r q : Reg) (v : Word) :
    (s.setRegFlag r v).reg q = if q = r then v else s.reg q := Regs.get_set s.regs r q v

@[simp] theorem State.setRegFlag_cond (s : State) (r : Reg) (v : Word) :
    (s.setRegFlag r v).cond = condOf v := by
  simp [State.setRegFlag]

theorem State.link_reg (s : State) (q : Reg) : s.link.reg q = if q = .r7 then s.pc else s.reg q :=
  Regs.get_set s.regs .r7 q s.pc

theorem State.trapLink_reg (s : State) (q : Reg) :
    s.trapLink.reg q = if q = .r7 ∧ s.params.trapLink = .savePC then s.pc else s.reg q := by
  unfold State.trapLink State.reg
  cases h : s.params.trapLink <;> simp [Regs.get_set]

/-- TRAP's link touches R7 alone. -/
theorem State.trapLink_reg_other (s : State) (q : Reg) (h : q ≠ .r7) : s.trapLink.reg q = s.reg q := by
  simp [State.trapLink_reg, h]

@[simp] theorem State.trapLink_none (s : State) (h : s.params.trapLink = .none) : s.trapLink = s := by
  unfold State.trapLink; rw [h]

/-! ### Reset -/

@[simp] theorem State.reset_params : State.reset.params = Config.params := rfl
@[simp] theorem State.resetWith_mem (p : Params) : (State.resetWith p).mem = [] := rfl

end Sys2Proof.Machine
end

