-- ==== Sys2Proof/Laws/Memory.lean ====
section
/-! SUPPORT. The laws of the Word Store: a write is read back, leaves every other cell alone and keeps the
canonical form. -/

namespace Sys2Proof.Machine

theorem Memory.wf_nil : Memory.wf [] := by simp [Memory.wf]

/-- A well-formed memory is its first cell and a well-formed rest with greater addresses. -/
theorem Memory.wf_cons {k : Nat} {v : Word} {m : Memory} :
    Memory.wf ((k, v) :: m) ↔
      k < 65536 ∧ v ≠ Memory.unlisted ∧ (∀ c ∈ m, k < c.1) ∧ Memory.wf m := by
  simp only [Memory.wf, List.map_cons, List.pairwise_cons, List.forall_mem_cons, List.mem_map]
  constructor
  · rintro ⟨⟨h1, h2⟩, ⟨h3, h4⟩, h5⟩
    exact ⟨h3, h4, fun c hc => h1 _ ⟨c, hc, rfl⟩, h2, h5⟩
  · rintro ⟨h1, h2, h3, h4, h5⟩
    exact ⟨⟨by rintro _ ⟨c, hc, rfl⟩; exact h3 c hc, h4⟩, ⟨h1, h2⟩, h5⟩

/-- An address below every listed one reads as unlisted. -/
theorem Memory.read_of_lt {m : Memory} {a : Nat} (h : ∀ c ∈ m, a < c.1) :
    Memory.read m a = Memory.unlisted := by
  induction m with
  | nil => rfl
  | cons c m ih =>
    obtain ⟨k, v⟩ := c
    have hk : a < k := h (k, v) (by simp)
    simp only [Memory.read]
    rw [if_neg (by omega)]
    exact ih fun c hc => h c (by simp [hc])

theorem Memory.read_write_same {m : Memory} (h : Memory.wf m) (a : Nat) (v : Word) :
    Memory.read (Memory.write m a v) a = v := by
  induction m with
  | nil => by_cases hv : v = Memory.unlisted <;> simp [Memory.write, Memory.read, hv]
  | cons c m ih =>
    obtain ⟨k, w⟩ := c
    obtain ⟨-, -, hk, hm⟩ := Memory.wf_cons.mp h
    simp only [Memory.write]
    split
    · next hlt =>
      split
      · next hv =>
        rw [hv, Memory.read_of_lt]
        intro c hc
        rcases List.mem_cons.mp hc with rfl | hc
        · exact hlt
        · exact hlt.trans (hk c hc)
      · simp [Memory.read]
    · next hlt =>
      split
      · next he =>
        subst he
        split
        · next hv => rw [hv, Memory.read_of_lt hk]
        · simp [Memory.read]
      · next hne =>
        simp only [Memory.read]
        rw [if_neg (fun e => hne e.symm)]
        exact ih hm

theorem Memory.read_write_other {m : Memory} {a b : Nat} (v : Word) (h : b ≠ a) :
    Memory.read (Memory.write m a v) b = Memory.read m b := by
  induction m with
  | nil => by_cases hv : v = Memory.unlisted <;> simp [Memory.write, Memory.read, hv, h.symm]
  | cons c m ih =>
    obtain ⟨k, w⟩ := c
    simp only [Memory.write]
    split
    · split <;> simp [Memory.read, h.symm]
    · split
      · next he =>
        subst he
        split <;> simp [Memory.read, h.symm]
      · simp [Memory.read, ih]

/-- A write lists no address but its own and those listed before. -/
theorem Memory.mem_write {m : Memory} {a : Nat} {v : Word} {c : Nat × Word}
    (h : c ∈ Memory.write m a v) : c = (a, v) ∧ v ≠ Memory.unlisted ∨ c ∈ m := by
  induction m with
  | nil =>
    simp only [Memory.write] at h
    split at h
    · simp at h
    · next hv => exact .inl ⟨by simpa using h, hv⟩
  | cons d m ih =>
    obtain ⟨k, w⟩ := d
    simp only [Memory.write] at h
    split at h
    · split at h
      · exact .inr h
      · next hv =>
        rcases List.mem_cons.mp h with rfl | h
        · exact .inl ⟨rfl, hv⟩
        · exact .inr h
    · split at h
      · split at h
        · exact .inr (List.mem_cons_of_mem _ h)
        · next hv =>
          rcases List.mem_cons.mp h with rfl | h
          · exact .inl ⟨rfl, hv⟩
          · exact .inr (List.mem_cons_of_mem _ h)
      · rcases List.mem_cons.mp h with rfl | h
        · exact .inr (by simp)
        · exact (ih h).imp id (List.mem_cons_of_mem _)

theorem Memory.write_wf {m : Memory} (h : Memory.wf m) {a : Nat} (ha : a < 65536) (v : Word) :
    Memory.wf (Memory.write m a v) := by
  induction m with
  | nil =>
    simp only [Memory.write]
    split
    · exact Memory.wf_nil
    · next hv => exact Memory.wf_cons.mpr ⟨ha, hv, by simp, Memory.wf_nil⟩
  | cons c m ih =>
    obtain ⟨k, w⟩ := c
    obtain ⟨hk, hw, hlt, hm⟩ := Memory.wf_cons.mp h
    simp only [Memory.write]
    split
    · next hak =>
      split
      · exact h
      · next hv =>
        refine Memory.wf_cons.mpr ⟨ha, hv, fun c hc => ?_, h⟩
        rcases List.mem_cons.mp hc with rfl | hc
        · exact hak
        · exact hak.trans (hlt c hc)
    · next hak =>
      split
      · next he =>
        subst he
        split
        · exact hm
        · next hv => exact Memory.wf_cons.mpr ⟨ha, hv, hlt, hm⟩
      · next hne =>
        refine Memory.wf_cons.mpr ⟨hk, hw, fun c hc => ?_, ih hm⟩
        rcases Memory.mem_write hc with ⟨rfl, -⟩ | hc
        · show k < a; omega
        · exact hlt c hc

/-! ### The same for a state's cells -/

/-- A write to the Word Store, read back: the written Word at its address, the old one elsewhere. -/
theorem State.memWrite_cell {s : State} (h : Memory.wf s.mem) (a v b : Word) :
    (s.memWrite a v).cell b = if b = a then v else s.cell b := by
  split
  · next e => subst e; exact Memory.read_write_same h _ _
  · next e => exact Memory.read_write_other v fun h => e (BitVec.eq_of_toNat_eq h)

theorem State.memWrite_cell_other (s : State) {a b : Word} (v : Word) (h : b ≠ a) :
    (s.memWrite a v).cell b = s.cell b :=
  Memory.read_write_other v fun e => h (BitVec.eq_of_toNat_eq e)

theorem State.memWrite_wf {s : State} (h : Memory.wf s.mem) (a v : Word) :
    Memory.wf (s.memWrite a v).mem := Memory.write_wf h a.isLt v

theorem State.storeTo_cell {s : State} (h : Memory.wf s.mem) (r : Reg) (a b : Word) :
    (s.storeTo r a).cell b = if b = a then s.reg r else s.cell b := State.memWrite_cell h a _ b

theorem State.storeTo_wf {s : State} (h : Memory.wf s.mem) (r : Reg) (a : Word) :
    Memory.wf (s.storeTo r a).mem := State.memWrite_wf h a _

theorem State.reset_wf : Memory.wf State.reset.mem := Memory.wf_nil

end Sys2Proof.Machine
end

