-- ==== Sys2Proof/Laws/Boot.lean ====
section
/-! SUPPORT. The loader keeps the Word Store's canonical form (70_reset_and_hazards.md R183). -/

namespace Sys2Proof.Machine

theorem loadWords_wf {m : Memory} (h : Memory.wf m) (a : Nat) (ws : List Word) :
    Memory.wf (loadWords m a ws) := by
  induction ws generalizing m a with
  | nil => exact h
  | cons w ws ih =>
    rw [loadWords]
    split
    · exact h
    · next hle => exact ih (Memory.write_wf h (by omega) w) (a + 1)

theorem loadImage_wf {m : Memory} (h : Memory.wf m) (image : Image) : Memory.wf (loadImage m image) :=
  loadWords_wf h _ _

theorem loadFiles_wf {m m' : Memory} (h : Memory.wf m) {files : List (Option (List Byte))}
    (hl : loadFiles m files = some m') : Memory.wf m' := by
  induction files generalizing m with
  | nil => rw [loadFiles] at hl; exact Option.some.inj hl ▸ h
  | cons f files ih =>
    cases f with
    | none => simp [loadFiles] at hl
    | some file =>
      rw [loadFiles] at hl
      split at hl
      · next image _ => exact ih (loadImage_wf h image) hl
      · simp at hl

/-- Readable, well-formed files load in their order (R183, R184). -/
theorem loadFiles_images {files : List (List Byte)} {images : List Image} (m : Memory)
    (h : files.map parseImage = images.map some) :
    loadFiles m (files.map some) = some (images.foldl loadImage m) := by
  induction files generalizing images m with
  | nil =>
    cases images with
    | nil => rfl
    | cons i is => simp at h
  | cons f fs ih =>
    cases images with
    | nil => simp at h
    | cons i is =>
      obtain ⟨hf, hs⟩ := List.cons.inj h
      simp only [List.map_cons, loadFiles, hf, List.foldl_cons]
      exact ih _ hs

/-- A file that stops the loading, wherever it stands, leaves no memory (R185). -/
theorem loadFiles_none {f : Option (List Byte)} {after : List (Option (List Byte))}
    (h : ∀ m, loadFiles m (f :: after) = none) (before : List (Option (List Byte))) (m : Memory) :
    loadFiles m (before ++ f :: after) = none := by
  induction before generalizing m with
  | nil => exact h m
  | cons b before ih =>
    cases b with
    | none => rfl
    | some file =>
      rw [List.cons_append, loadFiles]
      split
      · exact ih _
      · rfl

/-- A started block holds a well-formed Word Store. -/
theorem boot_wf {p : Params} {files : List (Option (List Byte))} {s : State}
    (h : boot p files = .started s) : Memory.wf s.mem := by
  unfold boot at h
  split at h
  · simp at h
  · split at h
    · next m hm => obtain rfl := Startup.started.inj h; exact loadFiles_wf Memory.wf_nil hm
    · simp at h

end Sys2Proof.Machine
end

