-- ==== Sys2Proof/Laws/Encoding.lean ====
section
/-! SUPPORT. What the decoder reads from an encoded word: for each format, its opcode bits and each of its
fields. -/

namespace Sys2Proof

@[simp] theorem Reg.ofBits_bits (r : Reg) : Reg.ofBits r.bits = r := by cases r <;> rfl

@[simp] theorem Reg.bits_ofBits (b : BitVec 3) : (Reg.ofBits b).bits = b := by revert b; decide

theorem Reg.bits_injective {a b : Reg} (h : a.bits = b.bits) : a = b := by
  rw [← Reg.ofBits_bits a, h, Reg.ofBits_bits]

/-- A placed field read at a bit of the Word. -/
@[simp] theorem place_getElem {n : Nat} (lo k : Nat) (v : BitVec n) (h : k < 16) :
    (place lo v)[k] = (decide (lo ≤ k) && v.getLsbD (k - lo)) := by
  by_cases h' : lo ≤ k <;> simp [place, h']

/-- `sext` reads only the low bits. -/
theorem sext_congr {n : Nat} {v w : Word} (h : v.extractLsb' 0 n = w.extractLsb' 0 n) :
    sext n v = sext n w := by
  unfold sext; rw [h]

/-- An immediate that fits is the sign extension of its encoded bits (30_encoding.md R64). -/
theorem fitsSigned_iff {n : Nat} {v : Word} : fitsSigned n v = true ↔ sext n v = v := by
  simp [fitsSigned]


/-! ### Format OPR -/

@[simp] theorem encodeOPR_bit15 (op : BitVec 4) (d s t : Reg) : (encodeOPR op d s t)[15] = op[3] := by
  simp [encodeOPR]
@[simp] theorem encodeOPR_bit14 (op : BitVec 4) (d s t : Reg) : (encodeOPR op d s t)[14] = op[2] := by
  simp [encodeOPR]
@[simp] theorem encodeOPR_bit13 (op : BitVec 4) (d s t : Reg) : (encodeOPR op d s t)[13] = op[1] := by
  simp [encodeOPR]
@[simp] theorem encodeOPR_bit12 (op : BitVec 4) (d s t : Reg) : (encodeOPR op d s t)[12] = op[0] := by
  simp [encodeOPR]
@[simp] theorem encodeOPR_bit5 (op : BitVec 4) (d s t : Reg) : (encodeOPR op d s t)[5] = false := by
  simp [encodeOPR]
theorem encodeOPR_dr (op : BitVec 4) (d s t : Reg) : (encodeOPR op d s t).extractLsb' 9 3 = d.bits := by
  apply BitVec.eq_of_getLsbD_eq
  intro k hk
  interval_cases k <;> simp [encodeOPR]
@[simp] theorem encodeOPR_fieldDR (op : BitVec 4) (d s t : Reg) : fieldDR (encodeOPR op d s t) = d := by
  simp [fieldDR, encodeOPR_dr]
theorem encodeOPR_sr1 (op : BitVec 4) (d s t : Reg) : (encodeOPR op d s t).extractLsb' 6 3 = s.bits := by
  apply BitVec.eq_of_getLsbD_eq
  intro k hk
  interval_cases k <;> simp [encodeOPR]
@[simp] theorem encodeOPR_fieldSR1 (op : BitVec 4) (d s t : Reg) : fieldSR1 (encodeOPR op d s t) = s := by
  simp [fieldSR1, encodeOPR_sr1]
theorem encodeOPR_sr2 (op : BitVec 4) (d s t : Reg) : (encodeOPR op d s t).extractLsb' 0 3 = t.bits := by
  apply BitVec.eq_of_getLsbD_eq
  intro k hk
  interval_cases k <;> simp [encodeOPR]
@[simp] theorem encodeOPR_fieldSR2 (op : BitVec 4) (d s t : Reg) : fieldSR2 (encodeOPR op d s t) = t := by
  simp [fieldSR2, encodeOPR_sr2]

/-! ### Format OPI -/

@[simp] theorem encodeOPI_bit15 (op : BitVec 4) (d s : Reg) (imm : Word) : (encodeOPI op d s imm)[15] = op[3] := by
  simp [encodeOPI]
@[simp] theorem encodeOPI_bit14 (op : BitVec 4) (d s : Reg) (imm : Word) : (encodeOPI op d s imm)[14] = op[2] := by
  simp [encodeOPI]
@[simp] theorem encodeOPI_bit13 (op : BitVec 4) (d s : Reg) (imm : Word) : (encodeOPI op d s imm)[13] = op[1] := by
  simp [encodeOPI]
@[simp] theorem encodeOPI_bit12 (op : BitVec 4) (d s : Reg) (imm : Word) : (encodeOPI op d s imm)[12] = op[0] := by
  simp [encodeOPI]
@[simp] theorem encodeOPI_bit5 (op : BitVec 4) (d s : Reg) (imm : Word) : (encodeOPI op d s imm)[5] = true := by
  simp [encodeOPI]
theorem encodeOPI_dr (op : BitVec 4) (d s : Reg) (imm : Word) : (encodeOPI op d s imm).extractLsb' 9 3 = d.bits := by
  apply BitVec.eq_of_getLsbD_eq
  intro k hk
  interval_cases k <;> simp [encodeOPI]
@[simp] theorem encodeOPI_fieldDR (op : BitVec 4) (d s : Reg) (imm : Word) : fieldDR (encodeOPI op d s imm) = d := by
  simp [fieldDR, encodeOPI_dr]
theorem encodeOPI_sr1 (op : BitVec 4) (d s : Reg) (imm : Word) : (encodeOPI op d s imm).extractLsb' 6 3 = s.bits := by
  apply BitVec.eq_of_getLsbD_eq
  intro k hk
  interval_cases k <;> simp [encodeOPI]
@[simp] theorem encodeOPI_fieldSR1 (op : BitVec 4) (d s : Reg) (imm : Word) : fieldSR1 (encodeOPI op d s imm) = s := by
  simp [fieldSR1, encodeOPI_sr1]
theorem encodeOPI_imm (op : BitVec 4) (d s : Reg) (imm : Word) : (encodeOPI op d s imm).extractLsb' 0 5 = imm.extractLsb' 0 5 := by
  apply BitVec.eq_of_getLsbD_eq
  intro k hk
  interval_cases k <;> simp [encodeOPI]
@[simp] theorem encodeOPI_sext (op : BitVec 4) (d s : Reg) (imm : Word) : sext 5 (encodeOPI op d s imm) = sext 5 imm :=
  sext_congr (encodeOPI_imm op d s imm)

/-! ### Format PC9 -/

@[simp] theorem encodePC9_bit15 (op : BitVec 4) (d : Reg) (off : Word) : (encodePC9 op d off)[15] = op[3] := by
  simp [encodePC9]
@[simp] theorem encodePC9_bit14 (op : BitVec 4) (d : Reg) (off : Word) : (encodePC9 op d off)[14] = op[2] := by
  simp [encodePC9]
@[simp] theorem encodePC9_bit13 (op : BitVec 4) (d : Reg) (off : Word) : (encodePC9 op d off)[13] = op[1] := by
  simp [encodePC9]
@[simp] theorem encodePC9_bit12 (op : BitVec 4) (d : Reg) (off : Word) : (encodePC9 op d off)[12] = op[0] := by
  simp [encodePC9]
theorem encodePC9_dr (op : BitVec 4) (d : Reg) (off : Word) : (encodePC9 op d off).extractLsb' 9 3 = d.bits := by
  apply BitVec.eq_of_getLsbD_eq
  intro k hk
  interval_cases k <;> simp [encodePC9]
@[simp] theorem encodePC9_fieldDR (op : BitVec 4) (d : Reg) (off : Word) : fieldDR (encodePC9 op d off) = d := by
  simp [fieldDR, encodePC9_dr]
theorem encodePC9_off (op : BitVec 4) (d : Reg) (off : Word) : (encodePC9 op d off).extractLsb' 0 9 = off.extractLsb' 0 9 := by
  apply BitVec.eq_of_getLsbD_eq
  intro k hk
  interval_cases k <;> simp [encodePC9]
@[simp] theorem encodePC9_sext (op : BitVec 4) (d : Reg) (off : Word) : sext 9 (encodePC9 op d off) = sext 9 off :=
  sext_congr (encodePC9_off op d off)

/-! ### Format BASE6 (and NOT, JMP, JSRR) -/

@[simp] theorem encodeBASE6_bit15 (op : BitVec 4) (d : BitVec 3) (s : Reg) (low : BitVec 6) : (encodeBASE6 op d s low)[15] = op[3] := by
  simp [encodeBASE6]
@[simp] theorem encodeBASE6_bit14 (op : BitVec 4) (d : BitVec 3) (s : Reg) (low : BitVec 6) : (encodeBASE6 op d s low)[14] = op[2] := by
  simp [encodeBASE6]
@[simp] theorem encodeBASE6_bit13 (op : BitVec 4) (d : BitVec 3) (s : Reg) (low : BitVec 6) : (encodeBASE6 op d s low)[13] = op[1] := by
  simp [encodeBASE6]
@[simp] theorem encodeBASE6_bit12 (op : BitVec 4) (d : BitVec 3) (s : Reg) (low : BitVec 6) : (encodeBASE6 op d s low)[12] = op[0] := by
  simp [encodeBASE6]
@[simp] theorem encodeBASE6_bit11 (op : BitVec 4) (d : BitVec 3) (s : Reg) (low : BitVec 6) : (encodeBASE6 op d s low)[11] = d[2] := by
  simp [encodeBASE6]
theorem encodeBASE6_dr (op : BitVec 4) (d : BitVec 3) (s : Reg) (low : BitVec 6) : (encodeBASE6 op d s low).extractLsb' 9 3 = d := by
  apply BitVec.eq_of_getLsbD_eq
  intro k hk
  interval_cases k <;> simp [encodeBASE6]
@[simp] theorem encodeBASE6_fieldDR (op : BitVec 4) (d : BitVec 3) (s : Reg) (low : BitVec 6) : fieldDR (encodeBASE6 op d s low) = Reg.ofBits d := by
  simp [fieldDR, encodeBASE6_dr]
theorem encodeBASE6_sr1 (op : BitVec 4) (d : BitVec 3) (s : Reg) (low : BitVec 6) : (encodeBASE6 op d s low).extractLsb' 6 3 = s.bits := by
  apply BitVec.eq_of_getLsbD_eq
  intro k hk
  interval_cases k <;> simp [encodeBASE6]
@[simp] theorem encodeBASE6_fieldSR1 (op : BitVec 4) (d : BitVec 3) (s : Reg) (low : BitVec 6) : fieldSR1 (encodeBASE6 op d s low) = s := by
  simp [fieldSR1, encodeBASE6_sr1]
theorem encodeBASE6_low (op : BitVec 4) (d : BitVec 3) (s : Reg) (low : BitVec 6) : (encodeBASE6 op d s low).extractLsb' 0 6 = low := by
  apply BitVec.eq_of_getLsbD_eq
  intro k hk
  interval_cases k <;> simp [encodeBASE6]
@[simp] theorem encodeBASE6_sext (op : BitVec 4) (d : BitVec 3) (s : Reg) (off : Word) :
    sext 6 (encodeBASE6 op d s (off.extractLsb' 0 6)) = sext 6 off :=
  sext_congr (encodeBASE6_low op d s _)

/-! ### Format BR -/

@[simp] theorem encodeBR_bit15 (n z p : Bool) (off : Word) : (encodeBR n z p off)[15] = false := by
  simp [encodeBR]
@[simp] theorem encodeBR_bit14 (n z p : Bool) (off : Word) : (encodeBR n z p off)[14] = false := by
  simp [encodeBR]
@[simp] theorem encodeBR_bit13 (n z p : Bool) (off : Word) : (encodeBR n z p off)[13] = false := by
  simp [encodeBR]
@[simp] theorem encodeBR_bit12 (n z p : Bool) (off : Word) : (encodeBR n z p off)[12] = false := by
  simp [encodeBR]
@[simp] theorem encodeBR_bit11 (n z p : Bool) (off : Word) : (encodeBR n z p off)[11] = n := by
  simp [encodeBR]
@[simp] theorem encodeBR_bit10 (n z p : Bool) (off : Word) : (encodeBR n z p off)[10] = z := by
  simp [encodeBR]
@[simp] theorem encodeBR_bit9 (n z p : Bool) (off : Word) : (encodeBR n z p off)[9] = p := by
  simp [encodeBR]
theorem encodeBR_off (n z p : Bool) (off : Word) : (encodeBR n z p off).extractLsb' 0 9 = off.extractLsb' 0 9 := by
  apply BitVec.eq_of_getLsbD_eq
  intro k hk
  interval_cases k <;> simp [encodeBR]
@[simp] theorem encodeBR_sext (n z p : Bool) (off : Word) : sext 9 (encodeBR n z p off) = sext 9 off :=
  sext_congr (encodeBR_off n z p off)

/-! ### Format JSR -/

@[simp] theorem encodeJSR_bit15 (off : Word) : (encodeJSR off)[15] = false := by
  simp [encodeJSR]
@[simp] theorem encodeJSR_bit14 (off : Word) : (encodeJSR off)[14] = true := by
  simp [encodeJSR]
@[simp] theorem encodeJSR_bit13 (off : Word) : (encodeJSR off)[13] = false := by
  simp [encodeJSR]
@[simp] theorem encodeJSR_bit12 (off : Word) : (encodeJSR off)[12] = false := by
  simp [encodeJSR]
@[simp] theorem encodeJSR_bit11 (off : Word) : (encodeJSR off)[11] = true := by
  simp [encodeJSR]
theorem encodeJSR_off (off : Word) : (encodeJSR off).extractLsb' 0 11 = off.extractLsb' 0 11 := by
  apply BitVec.eq_of_getLsbD_eq
  intro k hk
  interval_cases k <;> simp [encodeJSR]
@[simp] theorem encodeJSR_sext (off : Word) : sext 11 (encodeJSR off) = sext 11 off :=
  sext_congr (encodeJSR_off off)

/-! ### Format TRAP -/

@[simp] theorem encodeTRAP_bit15 (vect : Byte) : (encodeTRAP vect)[15] = true := by
  simp [encodeTRAP]
@[simp] theorem encodeTRAP_bit14 (vect : Byte) : (encodeTRAP vect)[14] = true := by
  simp [encodeTRAP]
@[simp] theorem encodeTRAP_bit13 (vect : Byte) : (encodeTRAP vect)[13] = true := by
  simp [encodeTRAP]
@[simp] theorem encodeTRAP_bit12 (vect : Byte) : (encodeTRAP vect)[12] = true := by
  simp [encodeTRAP]
theorem encodeTRAP_vect (vect : Byte) : (encodeTRAP vect).extractLsb' 0 8 = vect := by
  apply BitVec.eq_of_getLsbD_eq
  intro k hk
  interval_cases k <;> simp [encodeTRAP]
@[simp] theorem encodeTRAP_lowByte (vect : Byte) : lowByte (encodeTRAP vect) = vect := encodeTRAP_vect vect

/-! ### Format RES -/

@[simp] theorem encodeRES_bit15 (op : BitVec 4) (ir : Word) : (encodeRES op ir)[15] = op[3] := by
  simp [encodeRES]
@[simp] theorem encodeRES_bit14 (op : BitVec 4) (ir : Word) : (encodeRES op ir)[14] = op[2] := by
  simp [encodeRES]
@[simp] theorem encodeRES_bit13 (op : BitVec 4) (ir : Word) : (encodeRES op ir)[13] = op[1] := by
  simp [encodeRES]
@[simp] theorem encodeRES_bit12 (op : BitVec 4) (ir : Word) : (encodeRES op ir)[12] = op[0] := by
  simp [encodeRES]
/-- A reserved word is its own encoding (30_encoding.md R67). -/
theorem encodeRES_self {op : BitVec 4} {ir : Word} (h : ir.extractLsb' 12 4 = op) :
    encodeRES op ir = ir := by
  subst h
  apply BitVec.eq_of_getLsbD_eq
  intro k hk
  interval_cases k <;> simp [encodeRES]


/-! ### The decoder's sixteen arms (R66) -/

/-- An instruction the decoder gives an alias's name: JMP R7 (R75). -/
theorem decodeJmp_named (base : Reg) : decodeJmp base = (Instr.jmp base).named := by
  cases base <;> rfl

theorem decodeTrap_named (vect : Byte) : decodeTrap vect = (Instr.trap vect).named := by
  unfold decodeTrap Instr.named
  simp only [Instr.trap.injEq, reduceCtorEq, if_false]

/-- The four bits the decoder matches on are the opcode field `ir[15:12]`. -/
theorem opcode_bits {ir : Word} {op : BitVec 4} (h : ir.extractLsb' 12 4 = op) :
    ir.getLsbD 15 = op.getLsbD 3 ∧ ir.getLsbD 14 = op.getLsbD 2 ∧ ir.getLsbD 13 = op.getLsbD 1 ∧
      ir.getLsbD 12 = op.getLsbD 0 := by
  subst h; simp

end Sys2Proof
end

