-- ==== Sys2Proof/Laws/Ops.lean ====
section
/-! SUPPORT. What each shared operation can do, said once: the read path, fetch, loads, stores, the trap
routines and the end of an instruction. -/

namespace Sys2Proof.Machine

/-! ### Flags (10_state.md R26) -/

theorem condOf_zero : condOf 0 = .z := rfl

theorem condOf_neg {v : Word} (h : v.getLsbD 15 = true) : condOf v = .n := by
  have : v ≠ 0 := by rintro rfl; simp at h
  unfold condOf; rw [if_neg this, if_pos h]

theorem condOf_pos {v : Word} (h : v ≠ 0) (h' : v.getLsbD 15 = false) : condOf v = .p := by
  unfold condOf; rw [if_neg h, if_neg (by rw [h']; simp)]

theorem condOf_flagOf (v : Word) : FlagOf v (condOf v) :=
  ⟨fun h => h ▸ condOf_zero, condOf_neg, condOf_pos⟩

theorem condOf_ne_none (v : Word) : condOf v ≠ .none := by
  unfold condOf; split <;> [simp; (split <;> simp)]

/-- The flag of a value is the only one that `FlagOf` allows. -/
theorem condOf_unique {v : Word} {c : Cond} (h : FlagOf v c) : c = condOf v := by
  obtain ⟨h0, h1, h2⟩ := h
  by_cases hv : v = 0
  · rw [h0 hv, hv, condOf_zero]
  · cases hb : v.getLsbD 15
    · rw [h2 hv hb, condOf_pos hv hb]
    · rw [h1 hb, condOf_neg hb]

/-! ### The Device Adapter (10_state.md R33, R34) -/

theorem State.readChar_eq_some {s t : State} {c : Byte} (h : s.readChar = some (c, t)) :
    s.input = c :: t.input ∧ t = s.withInput t.input := by
  unfold State.readChar at h
  split at h
  · next c' cs hi =>
    obtain ⟨rfl, rfl⟩ : c' = c ∧ s.withInput cs = t := by simpa using h
    exact ⟨hi, rfl⟩
  · simp at h

theorem State.readChar_cons {s : State} {c : Byte} {cs : List Byte} (h : s.input = c :: cs) :
    s.readChar = some (c, s.withInput cs) := by
  unfold State.readChar; rw [h]

theorem State.readChar_nil {s : State} (h : s.input = []) : s.readChar = none := by
  unfold State.readChar; rw [h]

/-! ### The poll and the read path (20_memory.md R40) -/

/-- A poll that finds no key: one draw, the status word zeroed, nothing else. -/
theorem State.poll_no_key {s : State} (h : s.keyAnswer = false) :
    s.poll = some (s.drawn.memWrite s.params.kbsr 0) := by
  simp [State.poll, h]

/-- A poll that finds a key: one draw, one byte, the two device words written. -/
theorem State.poll_key {s : State} {c : Byte} {cs : List Byte} (h : s.keyAnswer = true)
    (hi : s.input = c :: cs) :
    s.poll = some (((s.drawn.withInput cs).memWrite s.params.kbsr 0x8000).memWrite
      s.params.kbdr (zext c)) := by
  simp only [State.poll, h, if_true]
  rw [State.readChar_cons (s := s.drawn) (c := c) (cs := cs) (by simpa using hi)]
  rfl

/-- A poll holds exactly when a key is said to be there and no byte is delivered. -/
theorem State.poll_eq_none {s : State} : s.poll = none ↔ s.keyAnswer = true ∧ s.input = [] := by
  cases hk : s.keyAnswer
  · simp [State.poll_no_key hk]
  · cases hi : s.input with
    | nil => simp [State.poll, hk, State.readChar_nil (s := s.drawn) (by simpa using hi)]
    | cons c cs => simp [State.poll_key hk hi]

/-- Everything a poll that ends can have done. -/
theorem State.poll_cases {s t : State} (h : s.poll = some t) :
    (s.keyAnswer = false ∧ t = s.drawn.memWrite s.params.kbsr 0) ∨
    (s.keyAnswer = true ∧ ∃ c cs, s.input = c :: cs ∧
      t = ((s.drawn.withInput cs).memWrite s.params.kbsr 0x8000).memWrite s.params.kbdr (zext c)) := by
  cases hk : s.keyAnswer
  · rw [State.poll_no_key hk] at h
    exact .inl ⟨rfl, (Option.some.inj h).symm⟩
  · cases hi : s.input with
    | nil => rw [State.poll_eq_none.mpr ⟨hk, hi⟩] at h; simp at h
    | cons c cs =>
      rw [State.poll_key hk hi] at h
      exact .inr ⟨rfl, c, cs, rfl, (Option.some.inj h).symm⟩

theorem SameHost.trans {s t u : State} (h : SameHost s t) (k : SameHost t u) : SameHost s u :=
  ⟨k.1.trans h.1, k.2.trans h.2⟩

theorem ReadFrame.refl (s : State) : ReadFrame s s := ⟨rfl, rfl, rfl, rfl, rfl, rfl, ⟨rfl, rfl⟩, rfl⟩

theorem ReadFrame.trans {s t u : State} (h : ReadFrame s t) (k : ReadFrame t u) : ReadFrame s u :=
  ⟨k.regs.trans h.regs, k.pc.trans h.pc, k.cond.trans h.cond, k.out.trans h.out,
    k.inPrompted.trans h.inPrompted, k.run.trans h.run, h.host.trans k.host,
    k.params.trans h.params⟩

theorem ReadFrame.reg {s t : State} (h : ReadFrame s t) (r : Reg) : t.reg r = s.reg r := by
  unfold State.reg; rw [h.regs]

theorem State.poll_frame {s t : State} (h : s.poll = some t) : ReadFrame s t := by
  obtain ⟨-, rfl⟩ | ⟨-, c, cs, -, rfl⟩ := State.poll_cases h <;>
    exact ⟨rfl, rfl, rfl, rfl, rfl, rfl, ⟨rfl, rfl⟩, rfl⟩

/-- An availability draw is used up. -/
theorem State.drawn_drawMade (s : State) : DrawMade s s.drawn := by
  unfold DrawMade State.drawn
  cases s.draws <;> simp

/-- A poll that ends makes one draw (20_memory.md R43). -/
theorem State.poll_drawMade {s t : State} (h : s.poll = some t) : DrawMade s t := by
  obtain ⟨-, rfl⟩ | ⟨-, c, cs, -, rfl⟩ := State.poll_cases h <;> exact s.drawn_drawMade

/-- The answer of a draw: a listed one, else the free value of its number (10_state.md R33). -/
theorem State.keyAnswer_cons {s : State} {b : Bool} {bs : List Bool} (h : s.draws = b :: bs) :
    s.keyAnswer = b := by
  unfold State.keyAnswer; rw [h]

theorem State.keyAnswer_nil {s : State} (h : s.draws = []) :
    s.keyAnswer = Config.keyAvailable s.drawCount := by
  unfold State.keyAnswer; rw [h]

/-- A poll writes no cell but the two device words. -/
theorem State.poll_cell {s t : State} (h : s.poll = some t) {a : Word} (h1 : a ≠ s.params.kbsr)
    (h2 : a ≠ s.params.kbdr) : t.cell a = s.cell a := by
  obtain ⟨-, rfl⟩ | ⟨-, c, cs, -, rfl⟩ := State.poll_cases h
  · rw [State.memWrite_cell_other _ _ h1]; rfl
  · rw [State.memWrite_cell_other _ _ h2, State.memWrite_cell_other _ _ h1]; rfl

theorem State.poll_wf {s t : State} (hs : Memory.wf s.mem) (h : s.poll = some t) : Memory.wf t.mem := by
  obtain ⟨-, rfl⟩ | ⟨-, c, cs, -, rfl⟩ := State.poll_cases h
  · exact State.memWrite_wf (s := s.drawn) hs _ _
  · exact State.memWrite_wf (State.memWrite_wf (s := s.drawn.withInput cs) hs _ _) _ _

/-- The status word after a poll: bit 15 says whether a key was found, the other bits are 0
(10_state.md R31). -/
theorem State.poll_status {s t : State} (hs : Memory.wf s.mem) (hd : s.params.kbsr ≠ s.params.kbdr)
    (h : s.poll = some t) : t.cell s.params.kbsr = if s.keyAnswer then 0x8000 else 0x0000 := by
  obtain ⟨hk, rfl⟩ | ⟨hk, c, cs, -, rfl⟩ := State.poll_cases h
  · rw [State.memWrite_cell (s := s.drawn) hs]; simp [hk]
  · rw [State.memWrite_cell_other _ _ hd, State.memWrite_cell (s := s.drawn.withInput cs) hs]
    simp [hk]

/-- A read of any address but `P_KBSR` is plain. -/
theorem State.memRead_plain {s : State} {a : Word} (h : a ≠ s.params.kbsr) :
    s.memRead a = some (s.cell a, s) := by
  simp [State.memRead, h]

theorem State.memRead_status (s : State) :
    s.memRead s.params.kbsr = s.poll.map fun t => (t.cell s.params.kbsr, t) := by
  unfold State.memRead
  cases h : s.poll <;> simp

/-- Everything a read that ends can have done. -/
theorem State.memRead_cases {s t : State} {a v : Word} (h : s.memRead a = some (v, t)) :
    (a ≠ s.params.kbsr ∧ v = s.cell a ∧ t = s) ∨
    (a = s.params.kbsr ∧ v = t.cell a ∧ s.poll = some t) := by
  by_cases ha : a = s.params.kbsr
  · subst ha
    rw [State.memRead_status, Option.map_eq_some_iff] at h
    obtain ⟨u, hu, e⟩ := h
    obtain ⟨rfl, rfl⟩ := Prod.mk.inj e
    exact .inr ⟨rfl, rfl, hu⟩
  · rw [State.memRead_plain ha] at h
    obtain ⟨rfl, rfl⟩ := Prod.mk.inj (Option.some.inj h)
    exact .inl ⟨ha, rfl, rfl⟩

/-- A read holds exactly when it polls and the poll holds (10_state.md R34). -/
theorem State.memRead_eq_none {s : State} {a : Word} :
    s.memRead a = none ↔ a = s.params.kbsr ∧ s.keyAnswer = true ∧ s.input = [] := by
  by_cases ha : a = s.params.kbsr
  · subst ha
    rw [State.memRead_status, Option.map_eq_none_iff, State.poll_eq_none]; simp
  · simp [State.memRead_plain ha, ha]

theorem State.memRead_frame {s t : State} {a v : Word} (h : s.memRead a = some (v, t)) :
    ReadFrame s t := by
  obtain ⟨-, -, rfl⟩ | ⟨-, -, hp⟩ := State.memRead_cases h
  · exact ReadFrame.refl _
  · exact State.poll_frame hp

theorem State.memRead_cell {s t : State} {a v : Word} (h : s.memRead a = some (v, t)) {b : Word}
    (h1 : b ≠ s.params.kbsr) (h2 : b ≠ s.params.kbdr) : t.cell b = s.cell b := by
  obtain ⟨-, -, rfl⟩ | ⟨-, -, hp⟩ := State.memRead_cases h
  · rfl
  · exact State.poll_cell hp h1 h2

theorem State.memRead_wf {s t : State} {a v : Word} (hs : Memory.wf s.mem)
    (h : s.memRead a = some (v, t)) : Memory.wf t.mem := by
  obtain ⟨-, -, rfl⟩ | ⟨-, -, hp⟩ := State.memRead_cases h
  · exact hs
  · exact State.poll_wf hs hp

/-! ### Fetch (R46) -/

theorem State.fetch_plain {s : State} (h : s.pc ≠ s.params.kbsr) :
    s.fetch = some (s.cell s.pc, s.setPc (s.pc + 1)) := by
  simp [State.fetch, State.memRead_plain h]

/-- A fetch that ends is a read of the cell at PC, then the increment. -/
theorem State.fetch_cases {s t : State} {ir : Word} (h : s.fetch = some (ir, t)) :
    ∃ u, s.memRead s.pc = some (ir, u) ∧ t = u.setPc (u.pc + 1) := by
  unfold State.fetch at h
  split at h
  · next ir' u hr =>
    obtain ⟨rfl, rfl⟩ := Prod.mk.inj (Option.some.inj h)
    exact ⟨u, hr, rfl⟩
  · simp at h

theorem State.fetch_eq_none {s : State} :
    s.fetch = none ↔ s.pc = s.params.kbsr ∧ s.keyAnswer = true ∧ s.input = [] := by
  rw [← State.memRead_eq_none]
  unfold State.fetch
  cases h : s.memRead s.pc with
  | none => simp
  | some x => obtain ⟨ir, t⟩ := x; simp

/-! ### Loads and stores (42_load_store.md R107) -/

theorem State.loadFrom_some {s t : State} {dr : Reg} {ea : Word} (h : s.loadFrom dr ea = some t) :
    ∃ v u, s.memRead ea = some (v, u) ∧ t = u.setRegFlag dr v := by
  unfold State.loadFrom at h
  split at h
  · next v u hr => exact ⟨v, u, hr, (Option.some.inj h).symm⟩
  · simp at h

theorem State.loadIndirect_some {s t : State} {dr : Reg} {pa : Word}
    (h : s.loadIndirect dr pa = some t) :
    ∃ ea v u w, s.memRead pa = some (ea, u) ∧ u.memRead ea = some (v, w) ∧ t = w.setRegFlag dr v := by
  unfold State.loadIndirect at h
  split at h
  · next ea u hr =>
    obtain ⟨v, w, hr', rfl⟩ := State.loadFrom_some h
    exact ⟨ea, v, u, w, hr, hr', rfl⟩
  · simp at h

theorem State.storeIndirect_some {s t : State} {sr : Reg} {pa : Word}
    (h : s.storeIndirect sr pa = some t) :
    ∃ ea u, s.memRead pa = some (ea, u) ∧ t = u.storeTo sr ea := by
  unfold State.storeIndirect at h
  split at h
  · next ea u hr => exact ⟨ea, u, hr, (Option.some.inj h).symm⟩
  · simp at h

/-- An instruction ends in the state it reached, or held. -/
theorem State.finish_next {s t : State} {r : Option State} (h : s.finish r = .next t) :
    r = some t ∨ r = none ∧ t = s.hold := by
  cases r with
  | some u => exact .inl (by simpa [State.finish] using h)
  | none => exact .inr ⟨rfl, by simpa [State.finish] using h.symm⟩

/-- A hold undoes exactly the PC increment of the fetch (20_memory.md R47). -/
theorem State.hold_of_fetch (s : State) : (s.setPc (s.pc + 1)).hold = s := by
  simp [State.hold, State.setPc]

/-! ### Trap routines (43_trap.md) -/

theorem State.runGetc_cons {s : State} {c : Byte} {cs : List Byte} (h : s.input = c :: cs) :
    s.runGetc = some ((s.withInput cs).setReg .r0 (zext c)).trapSetcc := by
  rw [State.runGetc, State.readChar_cons h]

theorem State.runIn_cons {s : State} {c : Byte} {cs : List Byte} (h : s.input = c :: cs) :
    s.runIn = some (((s.withInput cs).emit [c]).emitFlush.setReg .r0
      (inWord s.params.inExt c)).trapSetcc.promptDone := by
  rw [State.runIn, State.readChar_cons h]; rfl

theorem State.runGetc_some {s t : State} (h : s.runGetc = some t) :
    ∃ c cs, s.input = c :: cs ∧ t = ((s.withInput cs).setReg .r0 (zext c)).trapSetcc := by
  unfold State.runGetc at h
  split at h
  · next c u hr =>
    obtain ⟨hi, hu⟩ := State.readChar_eq_some hr
    rw [hu] at h
    exact ⟨c, u.input, hi, (Option.some.inj h).symm⟩
  · simp at h

theorem State.runGetc_eq_none {s : State} : s.runGetc = none ↔ s.input = [] := by
  cases h : s.input with
  | nil => simp [State.runGetc, State.readChar_nil h]
  | cons c cs => simp [State.runGetc, State.readChar_cons h]

theorem State.runIn_some {s t : State} (h : s.runIn = some t) :
    ∃ c cs, s.input = c :: cs ∧
      t = (((s.withInput cs).emit [c]).emitFlush.setReg .r0
        (inWord s.params.inExt c)).trapSetcc.promptDone := by
  unfold State.runIn at h
  split at h
  · next c u hr =>
    obtain ⟨hi, hu⟩ := State.readChar_eq_some hr
    rw [hu] at h
    exact ⟨c, u.input, hi, (Option.some.inj h).symm⟩
  · simp at h

theorem State.runIn_eq_none {s : State} : s.runIn = none ↔ s.input = [] := by
  cases h : s.input with
  | nil => simp [State.runIn, State.readChar_nil h]
  | cons c cs => simp [State.runIn, State.readChar_cons h]

/-- IN after its link: it ends with the next byte, or holds with its prompt written. -/
theorem execInp_cases (s : State) :
    (∃ t, s.trapLink.prompted.runIn = some t ∧ execInp s = .next t) ∨
    (s.input = [] ∧ execInp s = .next s.holdIn) := by
  unfold execInp runRoutine
  cases h : s.trapLink.prompted.runIn with
  | none => exact .inr ⟨by simpa using State.runIn_eq_none.mp h, rfl⟩
  | some t => exact .inl ⟨t, rfl, rfl⟩

/-- A string scan's end: all bytes out, then a flush or the fault (R124, R126). -/
theorem State.putString_cases (s : State) (chars : Word → List Byte) :
    ((s.scan chars).atDevice = false ∧
      s.putString chars = (s.emit (s.scan chars).bytes).emitFlush) ∨
    ((s.scan chars).atDevice = true ∧
      s.putString chars =
        (s.emit (s.scan chars).bytes).raiseFault (.trapDeviceRead s.params.kbsr)) := by
  unfold State.putString
  cases (s.scan chars).atDevice <;> simp

/-- TRAP selects its routine by the table (R121); a vector outside it faults (R128). -/
theorem execTrap_cases (vect : Byte) (s : State) :
    (∃ r, trapTable vect = some r ∧ execTrap vect s = runRoutine r s) ∨
    (trapTable vect = none ∧
      execTrap vect s = .next (s.trapLink.raiseFault (.unknownTrap vect))) := by
  unfold execTrap
  cases h : trapTable vect <;> simp

/-- The table of R121 is empty exactly outside 0x20 to 0x25. -/
theorem trapTable_eq_none {vect : Byte} :
    trapTable vect = none ↔ vect.toNat < 0x20 ∨ 0x25 < vect.toNat := by
  unfold trapTable
  constructor
  · intro h
    by_contra hc
    push Not at hc
    obtain ⟨n, hn⟩ : ∃ n, vect = BitVec.ofNat 8 n ∧ n = vect.toNat := ⟨vect.toNat, by simp, rfl⟩
    obtain ⟨hv, hn⟩ := hn
    rw [← hn] at hc
    have : n = 0x20 ∨ n = 0x21 ∨ n = 0x22 ∨ n = 0x23 ∨ n = 0x24 ∨ n = 0x25 := by omega
    rcases this with rfl | rfl | rfl | rfl | rfl | rfl <;> subst hv <;> simp at h
  · intro h
    repeat rw [if_neg (by rintro rfl; simp at h)]

/-! ### Every instruction ends in a next state (no meaning stops) -/

theorem runRoutine_next (r : TrapRoutine) (s : State) : ∃ t, runRoutine r s = .next t := by
  cases r <;> simp only [runRoutine, State.finish] <;> first | exact ⟨_, rfl⟩ | (split <;> exact ⟨_, rfl⟩)

theorem exec_next (i : Instr) (s : State) : ∃ t, exec i s = .next t := by
  cases i <;> simp only [exec, execAddReg, execAddImm, execAndReg, execAndImm, execNot, execBr, execJmp,
    execRet, execJsr, execJsrr, execLd, execLdi, execLdr, execLea, execSt, execSti, execStr,
    execReserved1000, execReserved1101, execGetc, execOut, execPuts, execInp, execPutsp, execHalt,
    execTrap, State.finish]
  all_goals first | exact ⟨_, rfl⟩ | exact runRoutine_next _ _ | (split <;> exact ⟨_, rfl⟩) | skip
  split
  · exact runRoutine_next _ _
  · exact ⟨_, rfl⟩

end Sys2Proof.Machine
end

