-- ==== Sys2Proof/Laws/PerInstr.lean ====
section
/-! SUPPORT. For every instruction, one lemma per constructor: its encoding is a word of its own row of the
opcode table. -/

namespace Sys2Proof.Laws.EncodesInItsRow

/-- The bits of `encode i` under the mask of `i`'s row of spec/opcode_table.json are the row's match value
(30_encoding.md R63, R66). -/
def Statement (i : Instr) : Prop := encode i &&& (tableRow i).1 = (tableRow i).2

/-- A word equals another if its sixteen bits do. -/
theorem word_ext {v w : Word} (h : ∀ k, k < 16 → v.getLsbD k = w.getLsbD k) : v = w :=
  BitVec.eq_of_getLsbD_eq h

theorem encodeOPR_row (op : BitVec 4) (d s t : Reg) :
    encodeOPR op d s t &&& 0xF020 = place 12 op := by
  apply word_ext
  intro k hk
  interval_cases k <;> simp [encodeOPR]

theorem encodeOPI_row (op : BitVec 4) (d s : Reg) (imm : Word) :
    encodeOPI op d s imm &&& 0xF020 = place 12 op ||| 0x0020 := by
  apply word_ext
  intro k hk
  interval_cases k <;> simp [encodeOPI]

theorem encodePC9_row (op : BitVec 4) (d : Reg) (off : Word) :
    encodePC9 op d off &&& 0xF000 = place 12 op := by
  apply word_ext
  intro k hk
  interval_cases k <;> simp [encodePC9]

theorem encodeBASE6_row (op : BitVec 4) (d : BitVec 3) (s : Reg) (low : BitVec 6) :
    encodeBASE6 op d s low &&& 0xF000 = place 12 op := by
  apply word_ext
  intro k hk
  interval_cases k <;> simp [encodeBASE6]

theorem encodeBR_row (n z p : Bool) (off : Word) :
    encodeBR n z p off &&& 0xF000 = 0 := by
  apply word_ext
  intro k hk
  interval_cases k <;> simp [encodeBR]

theorem encodeJSR_row (off : Word) :
    encodeJSR off &&& 0xF800 = 0x4800 := by
  apply word_ext
  intro k hk
  interval_cases k <;> simp [encodeJSR]

theorem encodeTRAP_row (vect : Byte) :
    encodeTRAP vect &&& 0xF000 = 0xF000 := by
  apply word_ext
  intro k hk
  interval_cases k <;> simp [encodeTRAP]

theorem encodeRES_row (op : BitVec 4) (ir : Word) :
    encodeRES op ir &&& 0xF000 = place 12 op := by
  apply word_ext
  intro k hk
  interval_cases k <;> simp [encodeRES]

theorem encodeBASE6_rowJSRR (s : Reg) :
    encodeBASE6 0b0100 0b000 s 0b000000 &&& 0xF800 = 0x4000 := by
  cases s <;> decide

theorem addReg (dr : Reg) (sr1 : Reg) (sr2 : Reg) : Statement (.addReg dr sr1 sr2) :=
  (encodeOPR_row _ _ _ _).trans rfl

theorem addImm (dr : Reg) (sr1 : Reg) (imm : Word) : Statement (.addImm dr sr1 imm) :=
  (encodeOPI_row _ _ _ _).trans rfl

theorem andReg (dr : Reg) (sr1 : Reg) (sr2 : Reg) : Statement (.andReg dr sr1 sr2) :=
  (encodeOPR_row _ _ _ _).trans rfl

theorem andImm (dr : Reg) (sr1 : Reg) (imm : Word) : Statement (.andImm dr sr1 imm) :=
  (encodeOPI_row _ _ _ _).trans rfl

theorem not (dr : Reg) (sr : Reg) : Statement (.not dr sr) :=
  (encodeBASE6_row _ _ _ _).trans rfl

theorem br (n : Bool) (z : Bool) (p : Bool) (off : Word) : Statement (.br n z p off) :=
  encodeBR_row _ _ _ _

theorem jmp (base : Reg) : Statement (.jmp base) :=
  (encodeBASE6_row _ _ _ _).trans rfl

theorem jsr (off : Word) : Statement (.jsr off) :=
  encodeJSR_row _

theorem jsrr (base : Reg) : Statement (.jsrr base) :=
  encodeBASE6_rowJSRR base

theorem ld (dr : Reg) (off : Word) : Statement (.ld dr off) :=
  (encodePC9_row _ _ _).trans rfl

theorem ldi (dr : Reg) (off : Word) : Statement (.ldi dr off) :=
  (encodePC9_row _ _ _).trans rfl

theorem ldr (dr : Reg) (base : Reg) (off : Word) : Statement (.ldr dr base off) :=
  (encodeBASE6_row _ _ _ _).trans rfl

theorem lea (dr : Reg) (off : Word) : Statement (.lea dr off) :=
  (encodePC9_row _ _ _).trans rfl

theorem st (sr : Reg) (off : Word) : Statement (.st sr off) :=
  (encodePC9_row _ _ _).trans rfl

theorem sti (sr : Reg) (off : Word) : Statement (.sti sr off) :=
  (encodePC9_row _ _ _).trans rfl

theorem str (sr : Reg) (base : Reg) (off : Word) : Statement (.str sr base off) :=
  (encodeBASE6_row _ _ _ _).trans rfl

theorem trap (vect : Byte) : Statement (.trap vect) :=
  encodeTRAP_row _

theorem reserved1000 (ir : Word) : Statement (.reserved1000 ir) :=
  (encodeRES_row _ _).trans rfl

theorem reserved1101 (ir : Word) : Statement (.reserved1101 ir) :=
  (encodeRES_row _ _).trans rfl

theorem ret : Statement (.ret) := by
  unfold Statement; decide

theorem getc : Statement (.getc) := by
  unfold Statement; decide

theorem out : Statement (.out) := by
  unfold Statement; decide

theorem puts : Statement (.puts) := by
  unfold Statement; decide

theorem inp : Statement (.inp) := by
  unfold Statement; decide

theorem putsp : Statement (.putsp) := by
  unfold Statement; decide

theorem halt : Statement (.halt) := by
  unfold Statement; decide

end Sys2Proof.Laws.EncodesInItsRow
end

