-- ==== Sys2Proof/Laws/Step.lean ====
section
/-! SUPPORT. Everything one step can do (20_memory.md R47; 10_state.md R35; 60_exceptions.md R163). -/

namespace Sys2Proof.Machine

/-! ### The host's next act -/

theorem State.nextAct_cons {s : State} {e : HostEvent} {es : List HostEvent} (h : s.hostEvents = e :: es) :
    s.nextAct = e := by
  unfold State.nextAct; rw [h]

theorem State.nextAct_runsOn {s : State} (h : s.hostEvents = []) (ha : s.hostAfter = .runsOn) :
    s.nextAct = .proceed := by
  unfold State.nextAct; rw [h, ha]

theorem State.nextAct_free {s : State} {n : Nat} (h : s.hostEvents = []) (ha : s.hostAfter = .free n) :
    s.nextAct = Config.hostAct n := by
  unfold State.nextAct; rw [h, ha]

theorem State.acted_cons {s : State} {e : HostEvent} {es : List HostEvent} (h : s.hostEvents = e :: es) :
    s.acted = { s with hostEvents := es } := by
  unfold State.acted; rw [h]; rfl

theorem State.acted_nil {s : State} (h : s.hostEvents = []) :
    s.acted = { s with hostAfter := s.hostAfter.rest } := by
  cases s; simp only at h; subst h; rfl

/-! ### The step -/

/-- The instruction cycle always ends in a next state. -/
theorem State.cycle_next (s : State) : ∃ t, s.cycle = .next t := by
  unfold State.cycle
  split
  · exact exec_next _ _
  · exact ⟨_, rfl⟩

/-- Where the host lets the block run, the step is the instruction cycle. -/
theorem step_letRun {s : State} (hr : s.run = .running) (hl : s.letRun) : step s = s.acted.cycle := by
  unfold step; rw [hr, show s.nextAct = .proceed from hl]

theorem step_abort {s : State} (hr : s.run = .running) (ha : s.nextAct = .abort) :
    step s = .next s.acted.hostAbort := by
  unfold step; rw [hr, ha]

theorem step_deliver {s : State} {b : Byte} (hr : s.run = .running) (ha : s.nextAct = .deliver b) :
    step s = .next (s.acted.hostDeliver b) := by
  unfold step; rw [hr, ha]

/-- A running state has a next state (R35). -/
theorem step_next {s : State} (hr : s.run = .running) : ∃ t, step s = .next t := by
  cases ha : s.nextAct with
  | proceed => rw [step_letRun hr ha]; exact State.cycle_next _
  | deliver b => exact ⟨_, step_deliver hr ha⟩
  | abort => exact ⟨_, step_abort hr ha⟩

/-- A step that answers a next state is the host's abort, its delivery, a fetch that holds, or the
execution of the fetched word. -/
theorem step_cases {s t : State} (h : step s = .next t) : s.run = .running ∧
    ((s.nextAct = .abort ∧ t = s.acted.hostAbort) ∨
     (∃ b, s.nextAct = .deliver b ∧ t = s.acted.hostDeliver b) ∨
     (s.letRun ∧ ((s.acted.fetch = none ∧ t = s.acted) ∨
       ∃ ir u, s.acted.fetch = some (ir, u) ∧ exec (decode ir) u = .next t))) := by
  have hr : s.run = .running := by
    cases hr : s.run <;> simp [step, hr] at h ⊢
  refine ⟨hr, ?_⟩
  cases ha : s.nextAct with
  | abort =>
    rw [step_abort hr ha] at h
    exact .inl ⟨rfl, (Host.Outcome.next.inj h).symm⟩
  | deliver b =>
    rw [step_deliver hr ha] at h
    exact .inr (.inl ⟨b, rfl, (Host.Outcome.next.inj h).symm⟩)
  | proceed =>
    rw [step_letRun hr ha, State.cycle] at h
    refine .inr (.inr ⟨ha, ?_⟩)
    split at h
    · next ir u hf => exact .inr ⟨ir, u, hf, h⟩
    · next hf => exact .inl ⟨hf, (Host.Outcome.next.inj h).symm⟩

end Sys2Proof.Machine
end

