-- ==== Sys2Proof/Laws/Trap.lean ====
section
/-! SUPPORT. The string scan of PUTS and PUTSP obeys the loop the spec writes (43_trap.md R124, R126;
20_memory.md R59). -/

namespace Sys2Proof.Machine

/-- The scan from address `a`, its distance to `P_KBSR` worked out. -/
def scanFrom (chars : Word → List Byte) (m : Memory) (kbsr a : Word) : ScanResult :=
  scanLoop chars m (kbsr - a).toNat a

theorem State.scan_eq (s : State) (chars : Word → List Byte) :
    s.scan chars = scanFrom chars s.mem s.params.kbsr (s.reg .r0) := rfl

/-- At `P_KBSR` the read faults. -/
theorem scanFrom_device (chars : Word → List Byte) (m : Memory) (kbsr : Word) :
    scanFrom chars m kbsr kbsr = ⟨[], true⟩ := by
  simp [scanFrom, scanLoop]

theorem sub_toNat_succ {k a : Word} (h : a ≠ k) : (k - a).toNat = (k - (a + 1)).toNat + 1 := by
  have : a.toNat ≠ k.toNat := fun e => h (BitVec.eq_of_toNat_eq e)
  rw [BitVec.toNat_sub, BitVec.toNat_sub, BitVec.toNat_add]
  have := a.isLt; have := k.isLt
  have h1 : (1 : Word).toNat = 1 := rfl
  omega

/-- Elsewhere the loop reads one Word, ends at zero, and otherwise writes its characters and goes on at
the next address. -/
theorem scanFrom_step (chars : Word → List Byte) (m : Memory) {kbsr a : Word} (h : a ≠ kbsr) :
    scanFrom chars m kbsr a =
      if Memory.read m a.toNat = 0 then ⟨[], false⟩
      else ⟨chars (Memory.read m a.toNat) ++ (scanFrom chars m kbsr (a + 1)).bytes,
            (scanFrom chars m kbsr (a + 1)).atDevice⟩ := by
  unfold scanFrom
  rw [sub_toNat_succ h, scanLoop]

theorem add_ofNat_succ (a : Word) (j : Nat) :
    a + BitVec.ofNat 16 (j + 1) = a + 1 + BitVec.ofNat 16 j := by
  rw [BitVec.ofNat_add, BitVec.add_assoc, BitVec.add_comm (BitVec.ofNat 16 j)]; rfl

/-- A scan passes some `k` non-zero Words outside `P_KBSR`, writes their characters, and ends at `P_KBSR`
or at a zero Word; `k` is at most the distance to `P_KBSR`. -/
theorem scanFrom_spec (chars : Word → List Byte) (m : Memory) (kbsr a : Word) :
    ∃ k ≤ (kbsr - a).toNat,
      (∀ j < k, a + BitVec.ofNat 16 j ≠ kbsr ∧ Memory.read m (a + BitVec.ofNat 16 j).toNat ≠ 0) ∧
      (scanFrom chars m kbsr a).bytes =
        (List.range k).flatMap (fun j => chars (Memory.read m (a + BitVec.ofNat 16 j).toNat)) ∧
      ((a + BitVec.ofNat 16 k = kbsr ∧ (scanFrom chars m kbsr a).atDevice = true) ∨
       (a + BitVec.ofNat 16 k ≠ kbsr ∧ Memory.read m (a + BitVec.ofNat 16 k).toNat = 0 ∧
        (scanFrom chars m kbsr a).atDevice = false)) := by
  generalize h : (kbsr - a).toNat = n
  induction n generalizing a with
  | zero =>
    have ha : a = kbsr := by
      have h0 : kbsr - a = 0 := BitVec.eq_of_toNat_eq (by simpa using h)
      rw [BitVec.sub_eq_iff_eq_add.mp h0]; exact (BitVec.zero_add a).symm
    subst ha
    exact ⟨0, le_rfl, by simp, by simp [scanFrom_device], .inl (by simp [scanFrom_device])⟩
  | succ n ih =>
    have ha : a ≠ kbsr := by rintro rfl; simp at h
    have hn := sub_toNat_succ ha
    obtain ⟨k, hk, hp, hb, hd⟩ := ih (a + 1) (by omega)
    rw [scanFrom_step chars m ha]
    by_cases hz : Memory.read m a.toNat = 0
    · exact ⟨0, by omega, by simp, by simp [hz], .inr (by simpa [hz] using ha)⟩
    · rw [if_neg hz]
      refine ⟨k + 1, by omega, fun j hj => ?_, ?_, ?_⟩
      · cases j with
        | zero => simpa using ⟨ha, hz⟩
        | succ j => rw [add_ofNat_succ]; exact hp j (by omega)
      · simp only [hb, List.range_succ_eq_map, List.flatMap_cons, List.flatMap_map, add_ofNat_succ]
        simp
      · rw [add_ofNat_succ]; exact hd

end Sys2Proof.Machine
end

