-- ==== Sys2Proof/Tests/Slice0.lean ====
section
/-! SUPPORT. The model's own tests: ill-formed terms, words written out from the encodings, one step of each
instruction, and a witness for the hypotheses of each statement. Expected results come from
95_test_vectors.md (the vector's name stands in the docstring) or from the rule named. -/

namespace Sys2Proof.Tests

open Sys2Proof Sys2Proof.Machine

/-! ### WellFormed refuses (30_encoding.md R62, R64, R67, R75) -/

theorem test_refuses_wide_fields :
    ¬ WellFormed (.addImm .r0 .r0 0x0010) ∧ ¬ WellFormed (.andImm .r0 .r0 0xFFEF) ∧
    ¬ WellFormed (.ldr .r0 .r0 0x0020) ∧ ¬ WellFormed (.str .r0 .r0 0xFFDF) ∧
    ¬ WellFormed (.br true true true 0x0100) ∧ ¬ WellFormed (.ld .r0 0xFEFF) ∧
    ¬ WellFormed (.ldi .r0 0x0100) ∧ ¬ WellFormed (.lea .r0 0x0100) ∧ ¬ WellFormed (.st .r0 0x0100) ∧
    ¬ WellFormed (.sti .r0 0x0100) ∧ ¬ WellFormed (.jsr 0x0400) := by decide

theorem test_refuses_wrong_reserved_word :
    ¬ WellFormed (.reserved1000 0xD000) ∧ ¬ WellFormed (.reserved1101 0x8000) := by decide

theorem test_refuses_aliased_names :
    ¬ WellFormed (.jmp .r7) ∧ ¬ WellFormed (.trap 0x20) ∧ ¬ WellFormed (.trap 0x21) ∧
    ¬ WellFormed (.trap 0x22) ∧ ¬ WellFormed (.trap 0x23) ∧ ¬ WellFormed (.trap 0x24) ∧
    ¬ WellFormed (.trap 0x25) := by decide

theorem test_accepts_boundary_fields :
    WellFormed (.addImm .r0 .r0 0x000F) ∧ WellFormed (.addImm .r0 .r0 0xFFF0) ∧
    WellFormed (.ldr .r0 .r0 0x001F) ∧ WellFormed (.ldr .r0 .r0 0xFFE0) ∧
    WellFormed (.ld .r0 0x00FF) ∧ WellFormed (.ld .r0 0xFF00) ∧
    WellFormed (.jsr 0x03FF) ∧ WellFormed (.jsr 0xFC00) ∧ WellFormed (.trap 0x26) ∧
    WellFormed (.jmp .r6) := by decide

/-! ### Decoding, each word written out from its format (30_encoding.md R63, R66) -/

/-- `oooo ddd sss 0 xx ttt`, `oooo ddd sss 1 iiiii` and `1001 ddd sss xxxxxx`. -/
theorem test_decode_operate :
    decode 0b0001_010_000_0_00_001 = .addReg .r2 .r0 .r1 ∧
    decode 0b0001_001_000_1_10110 = .addImm .r1 .r0 0xFFF6 ∧
    decode 0b0101_011_001_0_00_010 = .andReg .r3 .r1 .r2 ∧
    decode 0b0101_010_010_1_11111 = .andImm .r2 .r2 0xFFFF ∧
    decode 0b1001_011_100_111111 = .not .r3 .r4 := by decide

theorem test_decode_control :
    decode 0b0000_1_0_1_100000000 = .br true false true 0xFF00 ∧
    decode 0b1100_000_010_000000 = .jmp .r2 ∧
    decode 0b1100_000_111_000000 = .ret ∧
    decode 0b0100_1_10000000000 = .jsr 0xFC00 ∧
    decode 0b0100_0_00_011_000000 = .jsrr .r3 := by decide

theorem test_decode_load_store :
    decode 0b0010_001_000000101 = .ld .r1 0x0005 ∧
    decode 0b1010_010_111111111 = .ldi .r2 0xFFFF ∧
    decode 0b0110_011_100_111111 = .ldr .r3 .r4 0xFFFF ∧
    decode 0b1110_101_100000000 = .lea .r5 0xFF00 ∧
    decode 0b0011_001_111111110 = .st .r1 0xFFFE ∧
    decode 0b1011_010_000000011 = .sti .r2 0x0003 ∧
    decode 0b0111_101_110_000001 = .str .r5 .r6 0x0001 := by decide

theorem test_decode_trap :
    decode 0b1111_0000_00100000 = .getc ∧ decode 0b1111_0000_00100001 = .out ∧
    decode 0b1111_0000_00100010 = .puts ∧ decode 0b1111_0000_00100011 = .inp ∧
    decode 0b1111_0000_00100100 = .putsp ∧ decode 0b1111_0000_00100101 = .halt ∧
    decode 0b1111_0001_00100101 = .halt ∧ decode 0b1111_0000_00100110 = .trap 0x26 := by decide

theorem test_decode_reserved :
    decode 0b1000_000000000000 = .reserved1000 0x8000 ∧
    decode 0b1101_000100100011 = .reserved1101 0xD123 := by decide

/-- L1-1 and the table of 95_test_vectors.md 2.1. -/
theorem test_extensions :
    sext 16 0x8000 = 0x8000 ∧ sext 5 0x0010 = 0xFFF0 ∧ sext 5 0x000F = 0x000F ∧
    sext 6 0x0020 = 0xFFE0 ∧ sext 9 0x0100 = 0xFF00 ∧ sext 11 0x0400 = 0xFC00 ∧
    sext 11 0x03FF = 0x03FF ∧ sext 1 0x0001 = 0xFFFF ∧ zext 0xE9 = 0x00E9 := by decide

theorem test_setcc :
    condOf 0x0000 = .z ∧ condOf 0x0001 = .p ∧ condOf 0x7FFF = .p ∧ condOf 0x8000 = .n ∧
    condOf 0xFFFF = .n := by decide

/-! ### One step -/

/-- The parameters 95_test_vectors.md assumes, with one byte each for the notice and the prompt. -/
def params : Params where
  kbsr := 0xFE00
  kbdr := 0xFE02
  pcStart := 0x3000
  condReset := .none
  trapLink := .none
  trapSetsCC := false
  inExt := .zero
  haltNotice := [0x21]
  inPrompt := [0x3E]

/-- The parameters with the other choice of each of the three. -/
def params' : Params := { params with trapLink := .savePC, trapSetsCC := true, inExt := .sign }

/-- From reset with parameters `p`: the word `w` at address `a`, and PC there. -/
def start (p : Params) (a w : Word) : State := ((State.resetWith p).setPc a).memWrite a w

/-- With the test parameters, at 0x3000. -/
def run1 (w : Word) : State := start params 0x3000 w

/-- One step leads to a next state of which `f` holds. -/
def stepGives (s : State) (f : State → Bool) : Bool :=
  match step s with
  | .next t => f t
  | .fault _ => false
  | .refused _ => false

/-- ADD-1. -/
theorem test_add_overflows_to_negative :
    stepGives (((run1 0x1401).setReg .r0 0x7FFF).setReg .r1 0x0001)
      (fun t => t.reg .r2 == 0x8000 && t.cond == .n && t.pc == 0x3001) = true := by decide

/-- ADD-3: the destination is both sources. -/
theorem test_add_wraps : stepGives ((run1 0x1000).setReg .r0 0x8000)
    (fun t => t.reg .r0 == 0x0000 && t.cond == .z) = true := by decide

/-- ADD-8. -/
theorem test_add_immediate : stepGives ((run1 0x1236).setReg .r0 0x0005)
    (fun t => t.reg .r1 == 0xFFFB && t.cond == .n && t.reg .r0 == 0x0005) = true := by decide

/-- AND-1. -/
theorem test_and : stepGives (((run1 0x5642).setReg .r1 0xF0F0).setReg .r2 0x8FF0)
    (fun t => t.reg .r3 == 0x80F0 && t.cond == .n) = true := by decide

/-- AND-4. -/
theorem test_and_immediate : stepGives ((run1 0x5030).setReg .r0 0x1234)
    (fun t => t.reg .r0 == 0x1230 && t.cond == .p) = true := by decide

/-- NOT-2. -/
theorem test_not : stepGives ((run1 0x96FF).setReg .r3 0x8000)
    (fun t => t.reg .r3 == 0x7FFF && t.cond == .p) = true := by decide

/-- BR-4: at reset no flag is set, so even BRnzp is not taken. -/
theorem test_branch_without_flags : stepGives (run1 0x0E05) (fun t => t.pc == 0x3001) = true := by decide

/-- BR-6. -/
theorem test_branch_wraps : stepGives ((start params 0xFFFF 0x0E01).setcc 1)
    (fun t => t.pc == 0x0001) = true := by decide

/-- JMP-1. -/
theorem test_jump : stepGives ((run1 0xC080).setReg .r2 0x4000)
    (fun t => t.pc == 0x4000 && t.reg .r7 == 0) = true := by decide

/-- JMP-2. -/
theorem test_return : stepGives ((start params 0x3010 0xC1C0).setReg .r7 0x3004)
    (fun t => t.pc == 0x3004) = true := by decide

/-- JSR-2. -/
theorem test_jsr : stepGives (run1 0x4C00) (fun t => t.reg .r7 == 0x3001 && t.pc == 0x2C01) = true := by
  decide

/-- JSRR-1. -/
theorem test_jsrr : stepGives ((run1 0x40C0).setReg .r3 0x5000)
    (fun t => t.reg .r7 == 0x3001 && t.pc == 0x5000) = true := by decide

/-- JSRR-2. -/
theorem test_jsrr_r7 : stepGives ((run1 0x41C0).setReg .r7 0x1234)
    (fun t => t.reg .r7 == 0x3001 && t.pc == 0x3001) = true := by decide

/-- LD-2. -/
theorem test_ld : stepGives ((run1 0x2205).memWrite 0x3006 0x9000)
    (fun t => t.reg .r1 == 0x9000 && t.cond == .n) = true := by decide

/-- LDI-1. -/
theorem test_ldi : stepGives (((run1 0xA401).memWrite 0x3002 0x4000).memWrite 0x4000 0xBEEF)
    (fun t => t.reg .r2 == 0xBEEF && t.cond == .n) = true := by decide

/-- LDI-3: the second read polls. -/
theorem test_ldi_polls :
    stepGives { (run1 0xA401).memWrite 0x3002 0xFE00 with draws := [true], input := [0x61] }
      (fun t => t.reg .r2 == 0x8000 && t.cond == .n && t.cell 0xFE00 == 0x8000 &&
        t.cell 0xFE02 == 0x0061 && t.input == []) = true := by decide

/-- LDR-2: the base is the destination. -/
theorem test_ldr : stepGives (((run1 0x64BF).setReg .r2 0x4000).memWrite 0x3FFF 0xABCD)
    (fun t => t.reg .r2 == 0xABCD && t.cond == .n) = true := by decide

/-- MMIO-8: a key is announced and no byte has come. -/
theorem test_ldr_holds :
    stepGives { (run1 0x6180).setReg .r6 0xFE00 with draws := [true] }
      (fun t => t == { (run1 0x6180).setReg .r6 0xFE00 with draws := [true] }) = true := by decide

/-- LEA-4: no read of the device. -/
theorem test_lea : stepGives ((start params 0xFDFF 0xE000).memWrite 0xFE00 0x1234)
    (fun t => t.reg .r0 == 0xFE00 && t.cond == .n && t.cell 0xFE00 == 0x1234) = true := by decide

/-- ST-1. -/
theorem test_st : stepGives ((run1 0x33FE).setReg .r1 0x1234)
    (fun t => t.cell 0x2FFF == 0x1234 && t.cond == .none) = true := by decide

/-- STI-2: a plain store into KBDR. -/
theorem test_sti : stepGives (((run1 0xB403).memWrite 0x3004 0xFE02).setReg .r2 0x0033)
    (fun t => t.cell 0xFE02 == 0x0033 && t.cell 0x3004 == 0xFE02) = true := by decide

/-- STR-2: the base is the source. -/
theorem test_str : stepGives ((run1 0x7B41).setReg .r5 0x4200)
    (fun t => t.cell 0x4201 == 0x4200) = true := by decide

/-- GETC-1. -/
theorem test_getc : stepGives { (run1 0xF020).setcc 1 with input := [0x71] }
    (fun t => t.reg .r0 == 0x0071 && t.cond == .p && t.out == [] && t.input == []) = true := by decide

/-- GETC-2, and the link of SAVE_PC. -/
theorem test_getc_sets_cc : stepGives { (start params' 0x3000 0xF020).setcc 1 with input := [0x00] }
    (fun t => t.reg .r0 == 0x0000 && t.cond == .z && t.reg .r7 == 0x3001) = true := by decide

/-- OUT-1. -/
theorem test_out : stepGives ((run1 0xF021).setReg .r0 0x1241)
    (fun t => t.out == [.byte 0x41, .flush] && t.reg .r0 == 0x1241 && t.reg .r7 == 0) = true := by decide

/-- PUTS-4: the byte before the fault stays. -/
theorem test_puts_faults : stepGives (((run1 0xF022).memWrite 0xFDFF 0x0041).setReg .r0 0xFDFF)
    (fun t => t.out == [.byte 0x41] && t.run == .faulted (.trapDeviceRead 0xFE00)) = true := by decide

/-- PUTS-3. -/
theorem test_puts_high_byte : stepGives (((run1 0xF022).memWrite 0x4000 0x4100).setReg .r0 0x4000)
    (fun t => t.out == [.byte 0x00, .flush] && t.run == .running) = true := by decide

/-- IN-3. -/
theorem test_in : stepGives { run1 0xF023 with input := [0xE9] }
    (fun t => t.out == [.byte 0x3E, .flush, .byte 0xE9, .flush] && t.reg .r0 == 0x00E9) = true := by decide

/-- IN-2. -/
theorem test_in_signed : stepGives { start params' 0x3000 0xF023 with input := [0xE9] }
    (fun t => t.reg .r0 == 0xFFE9 && t.cond == .n) = true := by decide

/-- PUTSP-1. -/
theorem test_putsp : stepGives
    ((((run1 0xF024).memWrite 0x4000 0x6548).memWrite 0x4001 0x006C).setReg .r0 0x4000)
    (fun t => t.out == [.byte 0x48, .byte 0x65, .byte 0x6C, .flush]) = true := by decide

/-- PUTSP-2: a zero low byte is written. -/
theorem test_putsp_zero_low : stepGives (((run1 0xF024).memWrite 0x4000 0x4800).setReg .r0 0x4000)
    (fun t => t.out == [.byte 0x00, .byte 0x48, .flush]) = true := by decide

/-- HALT-1. -/
theorem test_halt : stepGives (start params 0x3002 0xF025)
    (fun t => t.out == [.byte 0x21, .flush] && t.run == .halted && t.pc == 0x3003) = true := by decide

/-- TRAP-1 and TRAP-2. -/
theorem test_unknown_trap :
    stepGives (run1 0xF000) (fun t => t.run == .faulted (.unknownTrap 0x00) && t.out == []) = true ∧
    stepGives (run1 0xF026) (fun t => t.run == .faulted (.unknownTrap 0x26)) = true := by decide

/-- RES-1. -/
theorem test_reserved1000 : stepGives (run1 0x8000)
    (fun t => t.run == .faulted (.reservedOpcode 0x8000) && t.pc == 0x3001) = true := by decide

/-- RES-2. -/
theorem test_reserved1101 : stepGives (start params 0x4000 0xD123)
    (fun t => t.run == .faulted (.reservedOpcode 0xD123) && t.pc == 0x4001) = true := by decide

/-- MMIO-6: a fetch that polls, and the faulting instruction it finds. -/
theorem test_fetch_polls : stepGives { (State.resetWith params).setPc 0xFE00 with
      draws := [true], input := [0x78] }
    (fun t => t.run == .faulted (.reservedOpcode 0x8000) && t.pc == 0xFE01 &&
      t.cell 0xFE02 == 0x0078) = true := by decide

/-- IMG-2: truncated at the end of the space. -/
theorem test_image_truncates :
    (parseImage [0xFF, 0xFE, 0x11, 0x11, 0x22, 0x22, 0x33, 0x33]).map (loadImage []) =
      some [(0xFFFE, 0x1111), (0xFFFF, 0x2222)] := by decide

/-- IMG-3 and IMG-4. -/
theorem test_images_in_order :
    boot params [some [0x30, 0x00, 0x00, 0x01, 0x00, 0x02], some [0x30, 0x01, 0x00, 0x09]] =
      .started { State.resetWith params with mem := [(0x3000, 0x0001), (0x3001, 0x0009)] } ∧
    boot params [some [0x30, 0x00, 0xE0]] = .failed .badImage := by decide

/-- The host's first probe, on a row of the opcode table (`ADD R2,R0,R1`); no row has more than 16 bits
(30_encoding.md R61). -/
theorem test_table_word : decodeTableWord 16 0x1401 = some (.addReg .r2 .r0 .r1) ∧
    decodeTableWord 32 0x1401 = none := by decide

/-- The host's second probe: `ADD R0,R0,#5` as the first instruction after reset (R82, R26). -/
theorem test_withFetchWord_runs_it : stepGives (State.reset.withFetchWord 16 0x1025)
    (fun t => t.reg .r0 == 0x0005 && t.cond == .p && t.pc == 0x3001) = true := by decide

/-! ### Witnesses: the hypotheses of each statement can be met, clause by clause -/

theorem witness_DecodeOfEncodeIsTheInstruction :
    (Instr.jmp .r7).fieldsFit = true ∧ (Instr.addImm .r7 .r7 0xFFF0).fieldsFit = true ∧
    WellFormed (.addImm .r7 .r7 0xFFF0) ∧ WellFormed (.jsr 0x03FF) := by decide

/-- One word for each of the nineteen clauses, the last bits of the opcode's range. -/
theorem witness_DecodeFollowsTheOpcodeMap :
    ((0x1FDF : Word).extractLsb' 12 4 = 0b0001 ∧ (0x1FDF : Word).getLsbD 5 = false) ∧
    ((0x1020 : Word).extractLsb' 12 4 = 0b0001 ∧ (0x1020 : Word).getLsbD 5 = true) ∧
    ((0x5FDF : Word).extractLsb' 12 4 = 0b0101 ∧ (0x5FDF : Word).getLsbD 5 = false) ∧
    ((0x5020 : Word).extractLsb' 12 4 = 0b0101 ∧ (0x5020 : Word).getLsbD 5 = true) ∧
    (0x9FFF : Word).extractLsb' 12 4 = 0b1001 ∧ (0x0FFF : Word).extractLsb' 12 4 = 0b0000 ∧
    (0xCFFF : Word).extractLsb' 12 4 = 0b1100 ∧
    ((0x4800 : Word).extractLsb' 12 4 = 0b0100 ∧ (0x4800 : Word).getLsbD 11 = true) ∧
    ((0x47FF : Word).extractLsb' 12 4 = 0b0100 ∧ (0x47FF : Word).getLsbD 11 = false) ∧
    (0x2FFF : Word).extractLsb' 12 4 = 0b0010 ∧ (0xAFFF : Word).extractLsb' 12 4 = 0b1010 ∧
    (0x6FFF : Word).extractLsb' 12 4 = 0b0110 ∧ (0xEFFF : Word).extractLsb' 12 4 = 0b1110 ∧
    (0x3FFF : Word).extractLsb' 12 4 = 0b0011 ∧ (0xBFFF : Word).extractLsb' 12 4 = 0b1011 ∧
    (0x7FFF : Word).extractLsb' 12 4 = 0b0111 ∧ (0xFFFF : Word).extractLsb' 12 4 = 0b1111 ∧
    (0x8FFF : Word).extractLsb' 12 4 = 0b1000 ∧ (0xDFFF : Word).extractLsb' 12 4 = 0b1101 := by decide

theorem witness_SignAndZeroExtension : (1 ≤ 1 ∧ 1 < 16 ∧ 15 < 16) ∧ (1 ≤ 15 ∧ 15 < 16 ∧ 0 < 16) := by
  decide

theorem witness_StepRunsTheDecodedInstruction :
    (run1 0x1401).run = .running ∧ (run1 0x1401).letRun ∧ (run1 0x1401).pc ≠ (run1 0x1401).params.kbsr ∧
    ({ run1 0x1401 with hostEvents := [.proceed], hostAfter := .free 0 }).letRun :=
  ⟨rfl, rfl, by decide, rfl⟩

/-- PC at `P_KBSR`, with the given draw and input. -/
def atStatus (key : Bool) (bytes : List Byte) : State :=
  { (State.resetWith params).setPc 0xFE00 with draws := [key], input := bytes }

theorem witness_FetchAtKeyboardStatusPolls :
    ((atStatus false []).run = .running ∧ (atStatus false []).letRun ∧
      (atStatus false []).pc = (atStatus false []).params.kbsr ∧ Memory.wf (atStatus false []).mem ∧
      (atStatus false []).params.kbsr ≠ (atStatus false []).params.kbdr ∧
      (atStatus false []).keyAnswer = false) ∧
    ((atStatus true [0x78]).run = .running ∧ (atStatus true [0x78]).letRun ∧
      (atStatus true [0x78]).pc = (atStatus true [0x78]).params.kbsr ∧
      Memory.wf (atStatus true [0x78]).mem ∧ (atStatus true [0x78]).keyAnswer = true ∧
      (atStatus true [0x78]).input = 0x78 :: []) ∧
    ((atStatus true []).run = .running ∧ (atStatus true []).letRun ∧
      (atStatus true []).pc = (atStatus true []).params.kbsr ∧ Memory.wf (atStatus true []).mem ∧
      (atStatus true []).keyAnswer = true ∧ (atStatus true []).input = []) :=
  ⟨⟨rfl, rfl, rfl, Memory.wf_nil, by decide, rfl⟩, ⟨rfl, rfl, rfl, Memory.wf_nil, rfl, rfl⟩,
    ⟨rfl, rfl, rfl, Memory.wf_nil, rfl, rfl⟩⟩

theorem witness_AnEndedRunHasNoStep :
    ({ State.reset with run := .halted } : State).run = .halted ∧
    ({ State.reset with run := .faulted (.unknownTrap 0x26) } : State).run =
      .faulted (.unknownTrap 0x26) ∧
    ({ State.reset with run := .aborted } : State).run = .aborted ∧ State.reset.run = .running :=
  ⟨rfl, rfl, rfl, rfl⟩

theorem witness_TheHostActsBetweenSteps :
    (({ State.reset with hostEvents := [.abort] } : State).run = .running ∧
      ({ State.reset with hostEvents := [.abort] } : State).nextAct = .abort ∧
      ({ State.reset with hostEvents := [.abort] } : State).hostEvents = .abort :: []) ∧
    (({ State.reset with hostEvents := [.deliver 0x41] } : State).run = .running ∧
      ({ State.reset with hostEvents := [.deliver 0x41] } : State).nextAct = .deliver 0x41) ∧
    (State.reset.run = .running ∧ State.reset.nextAct = .proceed ∧ State.reset.hostEvents = [] ∧
      State.reset.hostAfter = .runsOn) ∧
    (({ State.reset with hostAfter := .free 0 } : State).hostEvents = [] ∧
      ({ State.reset with hostAfter := .free 0 } : State).hostAfter = .free 0) :=
  ⟨⟨rfl, rfl, rfl⟩, ⟨rfl, rfl⟩, ⟨rfl, rfl, rfl, rfl⟩, rfl, rfl⟩

/-- The step hypothesis alone, at an ordinary instruction, a HALT, a fault and an abort. -/
theorem witness_ARunEndsOnlyByAbortHaltOrANamedFault :
    (∃ t, step (run1 0x1401) = .next t) ∧ (∃ t, step (run1 0xF025) = .next t) ∧
    (∃ t, step (run1 0x8000) = .next t) ∧
    (∃ t, step { run1 0x1401 with hostEvents := [.abort] } = .next t) :=
  ⟨step_next rfl, step_next rfl, step_next rfl, step_next rfl⟩

/-- A state with a written prompt, IN waiting at PC and no byte delivered. -/
def waitingIn : State := { run1 0xF023 with inPrompted := true }

theorem witness_EveryStepKeepsTheInvariant :
    (waitingIn.Inv ∧ ∃ t, step waitingIn = .next t) ∧
    ((run1 0x33FE).Inv ∧ ∃ t, step (run1 0x33FE) = .next t) :=
  ⟨⟨⟨by decide, by decide, fun _ => ⟨by decide, by decide⟩⟩, step_next rfl⟩,
    ⟨by decide, by decide, fun h => absurd h (by decide)⟩, step_next rfl⟩

theorem witness_TheInvariantHoldsAtTheStart :
    params.kbsr ≠ params.kbdr ∧
    boot params [some [0x30, 0x00]] = .started { State.resetWith params with mem := [] } := by decide

theorem witness_NoStepChangesAParameter : ∃ t, step (run1 0xF025) = .next t := step_next rfl

theorem witness_TheOutputOnlyGrows : ∃ t, step (run1 0xF021) = .next t := step_next rfl

theorem witness_InputIsConsumedInOrder :
    ((∃ t, step { run1 0xF020 with input := [0x71, 0x72] } = .next t) ∧
      ∀ b, ({ run1 0xF020 with input := [0x71, 0x72] } : State).nextAct ≠ .deliver b) ∧
    ((∃ t, step { run1 0xF020 with hostEvents := [.deliver 0x71] } = .next t) ∧
      ({ run1 0xF020 with hostEvents := [.deliver 0x71] } : State).nextAct = .deliver 0x71) :=
  ⟨⟨step_next rfl, fun _ h => nomatch h⟩, step_next rfl, rfl⟩

theorem witness_AFlagOnceSetStaysSet :
    ((run1 0x1401).setcc 1).cond ≠ .none ∧ ∃ t, step ((run1 0x1401).setcc 1) = .next t :=
  ⟨by decide, step_next rfl⟩

theorem witness_AddWritesTheSum :
    ((0x1FDF : Word).extractLsb' 12 4 = 0b0001 ∧ (0x1FDF : Word).getLsbD 5 = false) ∧
    ((0x1FFF : Word).extractLsb' 12 4 = 0b0001 ∧ (0x1FFF : Word).getLsbD 5 = true) := by decide

theorem witness_AndWritesTheBitwiseAnd :
    ((0x5FDF : Word).extractLsb' 12 4 = 0b0101 ∧ (0x5FDF : Word).getLsbD 5 = false) ∧
    ((0x5FFF : Word).extractLsb' 12 4 = 0b0101 ∧ (0x5FFF : Word).getLsbD 5 = true) := by decide

theorem witness_NotComplementsEveryBit : (0x9000 : Word).extractLsb' 12 4 = 0b1001 ∧ 15 < 16 := by decide

/-- L1-3: R1 = 3 beside the immediate 3. -/
theorem witness_RegisterAndImmediateModesAgree : ((run1 0x1081).setReg .r1 0x0003).reg .r1 = 0x0003 := by
  decide

theorem witness_SetccSetsExactlyOneFlag :
    (0x8000 : Word).getLsbD 15 = true ∧ ((0x7FFF : Word) ≠ 0 ∧ (0x7FFF : Word).getLsbD 15 = false) ∧
    ((0x0001 : Word) ≠ 0 ∧ (0x0001 : Word).getLsbD 15 = false) := by decide

theorem witness_BranchFollowsTheRequestedFlags : (0x0FFF : Word).extractLsb' 12 4 = 0b0000 := by decide

theorem witness_JumpLoadsPcFromItsBase : (0xCFFF : Word).extractLsb' 12 4 = 0b1100 := by decide

theorem witness_JsrLinksAndBranches :
    (0x4800 : Word).extractLsb' 12 4 = 0b0100 ∧ (0x4800 : Word).getLsbD 11 = true := by decide

theorem witness_JsrrLinksBeforeItReadsItsBase :
    ((0x47FF : Word).extractLsb' 12 4 = 0b0100 ∧ (0x47FF : Word).getLsbD 11 = false) ∧
    Reg.r7 = .r7 ∧ Reg.r6 ≠ .r7 := by decide

theorem witness_TheReadPathPollsAtKeyboardStatus :
    (Memory.wf (atStatus true [0x6B]).mem ∧
      (atStatus true [0x6B]).params.kbsr ≠ (atStatus true [0x6B]).params.kbdr) ∧
    (0xFDFF : Word) ≠ params.kbsr ∧ (0xFE02 : Word) ≠ params.kbsr ∧ (0xFE00 : Word) = params.kbsr ∧
    (atStatus false []).keyAnswer = false ∧
    ((atStatus true [0x6B]).keyAnswer = true ∧ (atStatus true [0x6B]).input = 0x6B :: []) ∧
    ((atStatus true []).keyAnswer = true ∧ (atStatus true []).input = []) ∧
    (atStatus true [0x6B]).draws = true :: [] ∧ State.reset.draws = [] := by decide

theorem witness_AWriteIsPlainStorageEverywhere : Memory.wf (run1 0x7380).mem := by decide

theorem witness_EqualReadsMeanEqualMemory :
    Memory.wf [(0x0000, 0x0001), (0xFFFF, 0x0002)] ∧
    ∀ a, a < 65536 → Memory.read [(0x0000, 0x0001), (0xFFFF, 0x0002)] a =
      Memory.read (Memory.write [(0x0000, 0x0001)] 0xFFFF 0x0002) a :=
  ⟨by decide, fun _ _ => rfl⟩

/-- STR R1, R6, #0 with R6 at the next instruction. -/
def strNext : State := (run1 0x7380).setReg .r6 0x3001

/-- STI R1, #1 with a pointer to the next instruction. -/
def stiNext : State := (run1 0xB201).memWrite 0x3002 0x3001

/-- ST R1, #0, and the two above. -/
theorem witness_AStoreIsSeenByTheNextFetch :
    (∀ s ∈ [run1 0x3200, strNext, stiNext], Memory.wf s.mem ∧ s.run = .running ∧ s.nextAct = .proceed ∧
      s.pc ≠ s.params.kbsr ∧ s.pc + 1 ≠ s.params.kbsr) ∧
    (decode ((run1 0x3200).cell (run1 0x3200).pc) = .st .r1 0 ∧
      ({ (run1 0x3200).acted with pc := 0x3001 } : State).pcRel 0 = (run1 0x3200).pc + 1) ∧
    (decode (strNext.cell strNext.pc) = .str .r1 .r6 0 ∧
      ({ strNext.acted with pc := 0x3001 } : State).baseOff .r6 0 = strNext.pc + 1) ∧
    (decode (stiNext.cell stiNext.pc) = .sti .r1 1 ∧
      ({ stiNext.acted with pc := 0x3001 } : State).memRead
        (({ stiNext.acted with pc := 0x3001 } : State).pcRel 1) =
          some (stiNext.pc + 1, { stiNext.acted with pc := 0x3001 })) := by decide

theorem witness_LoadsOfOrdinaryCellsComplete :
    State.reset.pc + 0x0005 ≠ State.reset.params.kbsr ∧
    ((run1 0x6382).setReg .r6 0xFE00).reg .r6 + 0x0002 ≠ (run1 0x6382).params.kbsr ∧
    ((run1 0xA401).pc + 0x0001 ≠ (run1 0xA401).params.kbsr ∧
      ((run1 0xA401).memWrite 0x3001 0xFDFF).cell ((run1 0xA401).pc + 0x0001) ≠
        (run1 0xA401).params.kbsr) := by decide

/-- R6 at `P_KBSR`, in each of the poll's two ends. -/
theorem witness_LoadsGoThroughTheReadPath :
    ((atStatus true [0x61]).memRead ((atStatus true [0x61]).pc + 0x0000)).isSome = true ∧
    (atStatus true []).memRead ((atStatus true []).pc + 0x0000) = none ∧
    (((atStatus false []).setReg .r6 0xFE00).memRead
      (((atStatus false []).setReg .r6 0xFE00).reg .r6 + 0x0000)).isSome = true ∧
    ((atStatus true []).setReg .r6 0xFE00).memRead
      (((atStatus true []).setReg .r6 0xFE00).reg .r6 + 0x0000) = none := by decide

/-- PC at 0x3000, the cell there a pointer to `P_KBSR`. -/
def pointing (key : Bool) (bytes : List Byte) : State :=
  { run1 0xFE00 with draws := [key], input := bytes }

theorem witness_LdiIsTwoChainedReads :
    ((pointing true [0x61]).memRead ((pointing true [0x61]).pc + 0x0000) =
        some (0xFE00, pointing true [0x61]) ∧
      ((pointing true [0x61]).memRead 0xFE00).isSome = true) ∧
    (atStatus true []).memRead ((atStatus true []).pc + 0x0000) = none ∧
    ((pointing true []).memRead ((pointing true []).pc + 0x0000) = some (0xFE00, pointing true []) ∧
      (pointing true []).memRead 0xFE00 = none) := by decide

theorem witness_LeaComputesWithoutReading : (0xEFFF : Word).extractLsb' 12 4 = 0b1110 := by decide

theorem witness_DirectStoresWriteOneCell :
    (0x3FFF : Word).extractLsb' 12 4 = 0b0011 ∧ (0x7FFF : Word).extractLsb' 12 4 = 0b0111 ∧
    Memory.wf (run1 0x33FE).mem := by decide

theorem witness_StiStoresThroughItsPointer :
    (0xBFFF : Word).extractLsb' 12 4 = 0b1011 ∧
    (Memory.wf (run1 0xB403).mem ∧ (run1 0xB403).pcRel 0x0003 ≠ (run1 0xB403).params.kbsr) ∧
    (Memory.wf (atStatus false []).mem ∧
      ((atStatus false []).memRead ((atStatus false []).pcRel 0x0000)).isSome = true) ∧
    (atStatus true []).memRead ((atStatus true []).pcRel 0x0000) = none := by decide

/-- All six vectors, with a byte there. -/
theorem witness_TrapCompletesForEveryKnownVector :
    ({ run1 0xF020 with input := [0x71] } : State).input ≠ [] ∧
    ∀ v ∈ ([0x20, 0x21, 0x22, 0x23, 0x24, 0x25] : List Byte), 0x20 ≤ v.toNat ∧ v.toNat ≤ 0x25 := by
  decide

theorem witness_GetcReadsOneCharacter :
    ({ run1 0xF020 with input := [0x71] } : State).input = 0x71 :: [] ∧ params'.trapSetsCC = true ∧
    params.trapSetsCC = false := ⟨rfl, rfl, rfl⟩

theorem witness_InPromptsReadsAndEchoes :
    ({ run1 0xF023 with input := [0xE9] } : State).input = 0xE9 :: [] ∧ params.inExt = .zero ∧
    params'.inExt = .sign ∧ params'.trapSetsCC = true ∧ params.trapSetsCC = false :=
  ⟨rfl, rfl, rfl, rfl, rfl⟩

theorem witness_AnUnknownTrapVectorFaults :
    (0x1F : Byte).toNat < 0x20 ∧ (0x00 : Byte).toNat < 0x20 ∧ 0x25 < (0x26 : Byte).toNat ∧
    0x25 < (0xFF : Byte).toNat := by decide

theorem witness_AReservedOpcodeFaults :
    (0x8000 : Word).extractLsb' 12 4 = 0b1000 ∧ (0xDFFF : Word).extractLsb' 12 4 = 0b1101 := by decide

theorem witness_NoTrapRoutineWritesMemory :
    Instr.puts.isTrap = true ∧ (∃ t, exec .puts State.reset = .next t) ∧ Reg.r1 ≠ .r0 ∧ Reg.r6 ≠ .r7 :=
  ⟨rfl, exec_next _ _, by decide, by decide⟩

/-- The instruction `w` at 0x3000 or, for the PC-relative forms, at 0xFDFF, next to `P_KBSR`; R6 at `P_KBSR`,
a key announced and no byte. -/
def held (a w : Word) : State := { (start params a w).setReg .r6 0xFE00 with draws := [true, true] }

/-- The state `held` after its fetch. -/
def heldExec (a w : Word) : State := { (held a w).acted with pc := a + 1 }

theorem witness_AHeldStepChangesAtMostAPrompt :
    ((atStatus true []).run = .running ∧ (atStatus true []).nextAct = .proceed ∧
      (atStatus true []).acted.fetch = none) ∧
    (∀ a w, (held a w).run = .running ∧ (held a w).letRun ∧ (held a w).input = []) ∧
    (held 0x3000 0xF020).pc ≠ (held 0x3000 0xF020).params.kbsr ∧
    (held 0xFDFF 0x2000).pc ≠ (held 0xFDFF 0x2000).params.kbsr ∧
    decode ((held 0x3000 0xF020).cell 0x3000) = .getc ∧
    decode ((held 0x3000 0xF023).cell 0x3000) = .inp ∧
    (decode ((held 0xFDFF 0x2000).cell 0xFDFF) = .ld .r0 0 ∧
      (heldExec 0xFDFF 0x2000).memRead ((heldExec 0xFDFF 0x2000).pcRel 0) = none) ∧
    (decode ((held 0x3000 0x6180).cell 0x3000) = .ldr .r0 .r6 0 ∧
      (heldExec 0x3000 0x6180).memRead ((heldExec 0x3000 0x6180).baseOff .r6 0) = none) ∧
    (decode ((held 0xFDFF 0xA000).cell 0xFDFF) = .ldi .r0 0 ∧
      (heldExec 0xFDFF 0xA000).memRead ((heldExec 0xFDFF 0xA000).pcRel 0) = none) ∧
    (decode (((held 0x3000 0xA000).memWrite 0x3001 0xFE00).cell 0x3000) = .ldi .r0 0 ∧
      ((heldExec 0x3000 0xA000).memWrite 0x3001 0xFE00).memRead
        (((heldExec 0x3000 0xA000).memWrite 0x3001 0xFE00).pcRel 0) =
          some (0xFE00, (heldExec 0x3000 0xA000).memWrite 0x3001 0xFE00) ∧
      ((heldExec 0x3000 0xA000).memWrite 0x3001 0xFE00).memRead 0xFE00 = none) ∧
    (decode ((held 0xFDFF 0xB000).cell 0xFDFF) = .sti .r0 0 ∧
      (heldExec 0xFDFF 0xB000).memRead ((heldExec 0xFDFF 0xB000).pcRel 0) = none) :=
  ⟨by decide, fun _ _ => ⟨rfl, rfl, rfl⟩, by decide⟩

/-- IN with no byte yet, the host letting it wait twice and then delivering one. -/
def promptThenByte : State := { run1 0xF023 with hostEvents := [.proceed, .proceed, .deliver 0x37, .proceed] }

theorem witness_AWaitingInWritesItsPromptOnce :
    promptThenByte.run = .running ∧ promptThenByte.pc ≠ promptThenByte.params.kbsr ∧
    decode (promptThenByte.cell promptThenByte.pc) = .inp ∧ promptThenByte.input = [] ∧
    promptThenByte.inPrompted = false ∧
    promptThenByte.hostEvents = [.proceed, .proceed, .deliver 0x37, .proceed] := by decide

theorem witness_OnlyFlagSettersWriteCond :
    ((∃ t, exec (.addImm .r0 .r0 0) State.reset = .next t) ∧ (Instr.addImm .r0 .r0 0).setsFlags = true) ∧
    ((∃ t, exec .getc State.reset = .next t) ∧ Instr.getc.setsFlags = false) :=
  ⟨⟨exec_next _ _, rfl⟩, exec_next _ _, rfl⟩

theorem witness_OnlyBranchReadsCond :
    (∀ n z p off, Instr.getc ≠ .br n z p off) ∧ ∃ t, exec .getc State.reset = .next t :=
  ⟨by simp, exec_next _ _⟩

theorem witness_RegistersAreWrittenOnlyAsListed :
    ∃ t, exec (.addImm .r0 .r0 1) State.reset = .next t ∧ t.reg .r0 ≠ State.reset.reg .r0 :=
  ⟨State.reset.setRegFlag .r0 1, rfl, by decide⟩

theorem witness_PcIsWrittenOnlyByControlTransfer :
    (∃ t, exec .getc State.reset = .next t) ∧ (∀ n z p off, Instr.getc ≠ .br n z p off) ∧
    (∀ base, Instr.getc ≠ .jmp base) ∧ Instr.getc ≠ .ret ∧ (∀ off, Instr.getc ≠ .jsr off) ∧
    (∀ base, Instr.getc ≠ .jsrr base) :=
  ⟨exec_next _ _, by simp, by simp, by simp, by simp, by simp⟩

/-- A store, and LD at `P_KBSR` with a key and a byte. -/
theorem witness_MemoryChangesOnlyByStoresAndPolls :
    (∃ t, exec (.st .r1 1) ((run1 0x3201).setReg .r1 0x00FF) = .next t ∧
      t.cell 0x3001 ≠ ((run1 0x3201).setReg .r1 0x00FF).cell 0x3001) ∧
    (∃ t, exec (.ld .r0 0) (atStatus true [0x61]) = .next t ∧
      t.cell 0xFE02 ≠ (atStatus true [0x61]).cell 0xFE02) :=
  ⟨⟨_, rfl, by decide⟩, _, rfl, by decide⟩

theorem witness_OnlyTrapsWriteTheConsole :
    (Instr.lea .r0 0).isTrap = false ∧ ∃ t, exec (.lea .r0 0) State.reset = .next t :=
  ⟨rfl, exec_next _ _⟩

theorem witness_LoadingAnImageWritesItsWords :
    Memory.wf [] ∧ 0xFFFF < 65536 ∧ (0xFFFE : Word).toNat ≤ 0xFFFF ∧ ¬ (0xFFFE : Word).toNat ≤ 0xFFFD := by
  decide

theorem witness_ImageFilesAreBigEndian :
    ([] : List Byte).length < 2 ∧ ([0x30] : List Byte).length < 2 ∧
    ([0x30, 0x00, 0xE0] : List Byte).length % 2 = 1 := by decide

/-- A malformed file, and the two files of IMG-3. -/
theorem witness_StartupLoadsOrFails :
    parseImage [0x30, 0x00, 0xE0] = none ∧
    ([[0x30, 0x00, 0x00, 0x01, 0x00, 0x02], [0x30, 0x01, 0x00, 0x09]] : List (List Byte)) ≠ [] ∧
    ([[0x30, 0x00, 0x00, 0x01, 0x00, 0x02], [0x30, 0x01, 0x00, 0x09]] : List (List Byte)).map parseImage =
      ([⟨0x3000, [0x0001, 0x0002]⟩, ⟨0x3001, [0x0009]⟩] : List Image).map some := by decide

end Sys2Proof.Tests
end

namespace Sys2Proof.Machine

/-! ## `setcc` (10_state.md R26) -/

/-- Settles O23: `setcc` stores `condOf v`, whose three cases are the laws `condOf_zero`, `condOf_neg` and
`condOf_pos`. -/
theorem setccSetsExactlyOneFlag : Obligations.SetccSetsExactlyOneFlag := by
  intro s v
  refine ⟨fun h => ?zero, fun h => ?negative, fun h hb => ?positive, rfl⟩
  case zero => rw [State.setcc_cond, h, condOf_zero]; rfl
  case negative => rw [State.setcc_cond, condOf_neg h]; rfl
  case positive => rw [State.setcc_cond, condOf_pos h hb]; rfl

/-! ## Only BR reads COND (10_state.md R28)

Two runs, from `s` and from `s.withCond c`, are compared. Every operation but BR's test either commutes with
`withCond c` or overwrites COND, so the two ends differ at most in a COND that neither run wrote. -/

/-- `s` with another condition code. -/
def State.withCond (s : State) (c : Cond) : State := { s with cond := c }

/-- `t` ends a run from `s`, and `t'` the same run from `s.withCond c`: either they are one state, or COND
was not written and the second run still holds `c`. -/
def CondUnread (s : State) (c : Cond) (t t' : State) : Prop :=
  t' = t ∨ (t.cond = s.cond ∧ t' = t.withCond c)

/-- An update that commutes with the change of COND keeps two such ends. -/
theorem CondUnread.map {s t t' : State} {c : Cond} (g : State → State)
    (hg : ∀ u d, g (u.withCond d) = (g u).withCond d) (h : CondUnread s c t t') :
    CondUnread s c (g t) (g t') := by
  have hcond : (g t).cond = t.cond := (congrArg State.cond (hg t t.cond) :)
  obtain rfl | ⟨ht, rfl⟩ := h
  · exact .inl rfl
  · exact .inr ⟨hcond.trans ht, hg t c⟩

/-- The two starts are themselves such ends: nothing has been written yet. -/
theorem CondUnread.start (s : State) (c : Cond) : CondUnread s c s (s.withCond c) := .inr ⟨rfl, rfl⟩

/-! ### The ways an instruction can be blind to COND -/

/-- Run from two states that differ in COND alone, `f` reaches two states that differ at most in a COND
it did not write. -/
def IgnoresCond (f : State → Host.Outcome State Fault Refusal) : Prop :=
  ∀ s c, ∃ t t', f s = .next t ∧ f (s.withCond c) = .next t' ∧ CondUnread s c t t'

/-- The update overwrites COND. -/
theorem ignoresCond_of_overwrites {g : State → State} (hg : ∀ s c, g (s.withCond c) = g s) :
    IgnoresCond fun s => .next (g s) :=
  fun s c => ⟨_, _, rfl, rfl, .inl (hg s c)⟩

/-- The update leaves COND alone. -/
theorem ignoresCond_of_commutes {g : State → State} (hg : ∀ s c, g (s.withCond c) = (g s).withCond c) :
    IgnoresCond fun s => .next (g s) :=
  fun s c => ⟨_, _, rfl, rfl, (CondUnread.start s c).map g hg⟩

/-- An instruction's end keeps two such ends, since a hold writes no COND. -/
theorem finish_condUnread {s : State} {c : Cond} {r r' : Option State}
    (h : Option.Rel (CondUnread s c) r r') :
    ∃ t t', s.finish r = .next t ∧ (s.withCond c).finish r' = .next t' ∧ CondUnread s c t t' := by
  cases h with
  | none => exact ⟨_, _, rfl, rfl, (CondUnread.start s c).map State.hold fun _ _ => rfl⟩
  | some h => exact ⟨_, _, rfl, rfl, h⟩

/-- The instruction may hold: both runs hold or neither does. -/
theorem ignoresCond_finish {g : State → Option State}
    (hg : ∀ s c, Option.Rel (CondUnread s c) (g s) (g (s.withCond c))) :
    IgnoresCond fun s => s.finish (g s) :=
  fun s c => finish_condUnread (hg s c)

/-- The instruction may hold, and where it ends it overwrites COND: the flag-setting loads. -/
theorem ignoresCond_finish_of_overwrites {g : State → Option State}
    (hg : ∀ s c, g (s.withCond c) = g s) : IgnoresCond fun s => s.finish (g s) := by
  refine ignoresCond_finish fun s c => ?_
  rw [hg]
  cases g s with
  | none => exact .none
  | some t => exact .some (.inl rfl)

/-! ### The Device Adapter and the read path do not read COND -/

theorem State.poll_withCond (s : State) (c : Cond) :
    (s.withCond c).poll = s.poll.map (·.withCond c) := by
  cases hk : s.keyAnswer with
  | false => rw [State.poll_no_key hk, State.poll_no_key (s := s.withCond c) hk]; rfl
  | true =>
    cases hi : s.input with
    | nil => rw [State.poll_eq_none.mpr ⟨hk, hi⟩, (State.poll_eq_none (s := s.withCond c)).mpr ⟨hk, hi⟩]; rfl
    | cons b bs => rw [State.poll_key hk hi, State.poll_key (s := s.withCond c) hk hi]; rfl

theorem State.memRead_withCond (s : State) (c : Cond) (a : Word) :
    (s.withCond c).memRead a = (s.memRead a).map fun r => (r.1, r.2.withCond c) := by
  by_cases ha : a = s.params.kbsr
  · subst ha
    have hs := State.memRead_status (s.withCond c)
    rw [State.poll_withCond] at hs
    rw [State.memRead_status, Option.map_map]
    exact hs.trans (Option.map_map ..)
  · rw [State.memRead_plain ha, State.memRead_plain (s := s.withCond c) ha]; rfl

theorem State.loadFrom_withCond (s : State) (c : Cond) (dr : Reg) (ea : Word) :
    (s.withCond c).loadFrom dr ea = s.loadFrom dr ea := by
  rw [State.loadFrom, State.loadFrom, State.memRead_withCond]
  cases s.memRead ea <;> rfl

theorem State.loadIndirect_withCond (s : State) (c : Cond) (dr : Reg) (pa : Word) :
    (s.withCond c).loadIndirect dr pa = s.loadIndirect dr pa := by
  rw [State.loadIndirect, State.loadIndirect, State.memRead_withCond]
  cases s.memRead pa with
  | none => rfl
  | some r => exact State.loadFrom_withCond r.2 c dr r.1

theorem State.storeIndirect_rel (s : State) (c : Cond) (sr : Reg) (pa : Word) :
    Option.Rel (CondUnread s c) (s.storeIndirect sr pa) ((s.withCond c).storeIndirect sr pa) := by
  rw [State.storeIndirect, State.storeIndirect, State.memRead_withCond]
  cases h : s.memRead pa with
  | none => exact .none
  | some r => exact .some (.inr ⟨(State.memRead_frame h).cond, rfl⟩)

/-! ### The trap routines do not read COND -/

/-- GETC and IN write COND if `P_TRAP_SETS_CC` says so, in both runs or in neither. -/
theorem State.trapSetcc_condUnread (s : State) (c : Cond) :
    CondUnread s c s.trapSetcc (s.withCond c).trapSetcc := by
  cases h : s.params.trapSetsCC with
  | true => left; simp [State.trapSetcc, State.withCond, State.reg, h]
  | false => right; simp [State.trapSetcc, State.withCond, h]

theorem State.runGetc_rel (s : State) (c : Cond) :
    Option.Rel (CondUnread s c) s.runGetc (s.withCond c).runGetc := by
  cases hi : s.input with
  | nil =>
    rw [State.runGetc_eq_none.mpr hi, (State.runGetc_eq_none (s := s.withCond c)).mpr hi]
    exact .none
  | cons b bs =>
    rw [State.runGetc_cons hi, State.runGetc_cons (s := s.withCond c) hi]
    exact .some (State.trapSetcc_condUnread ((s.withInput bs).setReg .r0 (zext b)) c)

theorem State.runIn_rel (s : State) (c : Cond) :
    Option.Rel (CondUnread s c) s.runIn (s.withCond c).runIn := by
  cases hi : s.input with
  | nil =>
    rw [State.runIn_eq_none.mpr hi, (State.runIn_eq_none (s := s.withCond c)).mpr hi]
    exact .none
  | cons b bs =>
    rw [State.runIn_cons hi, State.runIn_cons (s := s.withCond c) hi]
    exact .some (CondUnread.map State.promptDone (fun _ _ => rfl) (State.trapSetcc_condUnread
      (((s.withInput bs).emit [b]).emitFlush.setReg .r0 (inWord s.params.inExt b)) c))

theorem State.putString_withCond (s : State) (chars : Word → List Byte) (c : Cond) :
    (s.withCond c).putString chars = (s.putString chars).withCond c := by
  have hscan : (s.withCond c).scan chars = s.scan chars := rfl
  unfold State.putString
  rw [hscan]
  cases (s.scan chars).atDevice <;> rfl

theorem ignoresCond_runRoutine_inp : IgnoresCond (runRoutine .inp) := by
  intro s c
  have h : Option.Rel (CondUnread s c) s.trapLink.prompted.runIn
      (s.withCond c).trapLink.prompted.runIn := State.runIn_rel s.trapLink.prompted c
  unfold runRoutine
  generalize s.trapLink.prompted.runIn = r at h ⊢
  generalize (s.withCond c).trapLink.prompted.runIn = r' at h ⊢
  cases h with
  | none => exact ⟨_, _, rfl, rfl, (CondUnread.start s c).map State.holdIn fun _ _ => rfl⟩
  | some h => exact ⟨_, _, rfl, rfl, h⟩

theorem ignoresCond_runRoutine (r : TrapRoutine) : IgnoresCond (runRoutine r) := by
  cases r with
  | getc => exact ignoresCond_finish fun s c => State.runGetc_rel s.trapLink c
  | out => exact ignoresCond_of_commutes fun _ _ => rfl
  | puts => exact ignoresCond_of_commutes fun s c => State.putString_withCond s.trapLink putsChars c
  | inp => exact ignoresCond_runRoutine_inp
  | putsp => exact ignoresCond_of_commutes fun s c => State.putString_withCond s.trapLink putspChars c
  | halt => exact ignoresCond_of_commutes fun _ _ => rfl

theorem ignoresCond_execTrap (vect : Byte) : IgnoresCond (execTrap vect) := by
  unfold execTrap
  cases trapTable vect with
  | some r => exact ignoresCond_runRoutine r
  | none => exact ignoresCond_of_commutes fun _ _ => rfl

/-! ### Every instruction but BR -/

theorem ignoresCond_exec (i : Instr) (hi : ∀ n z p off, i ≠ .br n z p off) : IgnoresCond (exec i) := by
  cases i with
  | br n z p off => exact absurd rfl (hi n z p off)
  | addReg | addImm | andReg | andImm | not | lea => exact ignoresCond_of_overwrites fun _ _ => rfl
  | jmp | ret | jsr | jsrr | st | str | reserved1000 | reserved1101 =>
    exact ignoresCond_of_commutes fun _ _ => rfl
  | ld dr off =>
    exact ignoresCond_finish_of_overwrites fun s c => State.loadFrom_withCond s c dr (s.pcRel off)
  | ldr dr base off =>
    exact ignoresCond_finish_of_overwrites fun s c => State.loadFrom_withCond s c dr (s.baseOff base off)
  | ldi dr off =>
    exact ignoresCond_finish_of_overwrites fun s c => State.loadIndirect_withCond s c dr (s.pcRel off)
  | sti sr off => exact ignoresCond_finish fun s c => State.storeIndirect_rel s c sr (s.pcRel off)
  | trap vect => exact ignoresCond_execTrap vect
  | getc => exact ignoresCond_runRoutine .getc
  | out => exact ignoresCond_runRoutine .out
  | puts => exact ignoresCond_runRoutine .puts
  | inp => exact ignoresCond_runRoutine .inp
  | putsp => exact ignoresCond_runRoutine .putsp
  | halt => exact ignoresCond_runRoutine .halt

/-- Settles O52: every instruction but BR overwrites COND or commutes with a change of it. -/
theorem onlyBranchReadsCond : Obligations.OnlyBranchReadsCond := by
  intro i c s t hi h
  obtain ⟨u, t', hu, ht', hrel⟩ := ignoresCond_exec i hi s c
  obtain rfl : u = t := Host.Outcome.next.inj (hu.symm.trans h)
  refine ⟨t', ht', ?_⟩
  obtain rfl | ⟨hcond, rfl⟩ := hrel
  · exact ⟨rfl, .inl rfl⟩
  · exact ⟨rfl, .inr ⟨hcond, rfl⟩⟩

end Sys2Proof.Machine

/-! ## The decoder, arm by arm (30_encoding.md R66, R67)

One equation per row of the opcode map: the opcode field, with the mode bit of ADD, AND and JSR, says which
instruction the word decodes to. -/

namespace Sys2Proof

/-- An alias's name and the instruction it names stand for the same core instruction (R75). -/
@[simp] theorem Instr.core_named (i : Instr) : i.named.core = i.core := by
  unfold Instr.named
  split_ifs with h h h h h h h
  case neg => rfl
  all_goals rw [h]; rfl

section
variable {w : Word}

theorem decode_addReg (h : w.extractLsb' 12 4 = 0b0001) (h5 : w.getLsbD 5 = false) :
    decode w = .addReg (fieldDR w) (fieldSR1 w) (fieldSR2 w) := by
  simp only [decode, opcode_bits h, BitVec.reduceGetLsb, h5, Bool.false_eq_true, if_false]

theorem decode_addImm (h : w.extractLsb' 12 4 = 0b0001) (h5 : w.getLsbD 5 = true) :
    decode w = .addImm (fieldDR w) (fieldSR1 w) (sext 5 w) := by
  simp only [decode, opcode_bits h, BitVec.reduceGetLsb, h5, if_true]

theorem decode_andReg (h : w.extractLsb' 12 4 = 0b0101) (h5 : w.getLsbD 5 = false) :
    decode w = .andReg (fieldDR w) (fieldSR1 w) (fieldSR2 w) := by
  simp only [decode, opcode_bits h, BitVec.reduceGetLsb, h5, Bool.false_eq_true, if_false]

theorem decode_andImm (h : w.extractLsb' 12 4 = 0b0101) (h5 : w.getLsbD 5 = true) :
    decode w = .andImm (fieldDR w) (fieldSR1 w) (sext 5 w) := by
  simp only [decode, opcode_bits h, BitVec.reduceGetLsb, h5, if_true]

theorem decode_not (h : w.extractLsb' 12 4 = 0b1001) : decode w = .not (fieldDR w) (fieldSR1 w) := by
  simp only [decode, opcode_bits h, BitVec.reduceGetLsb]

theorem decode_br (h : w.extractLsb' 12 4 = 0b0000) :
    decode w = .br (w.getLsbD 11) (w.getLsbD 10) (w.getLsbD 9) (sext 9 w) := by
  simp only [decode, opcode_bits h, BitVec.reduceGetLsb]

/-- JMP, by the name RET at R7. -/
theorem decode_jmp (h : w.extractLsb' 12 4 = 0b1100) : decode w = (Instr.jmp (fieldSR1 w)).named := by
  simp only [decode, opcode_bits h, BitVec.reduceGetLsb, decodeJmp_named]

theorem decode_jsr (h : w.extractLsb' 12 4 = 0b0100) (h11 : w.getLsbD 11 = true) :
    decode w = .jsr (sext 11 w) := by
  simp only [decode, opcode_bits h, BitVec.reduceGetLsb, h11, if_true]

theorem decode_jsrr (h : w.extractLsb' 12 4 = 0b0100) (h11 : w.getLsbD 11 = false) :
    decode w = .jsrr (fieldSR1 w) := by
  simp only [decode, opcode_bits h, BitVec.reduceGetLsb, h11, Bool.false_eq_true, if_false]

theorem decode_ld (h : w.extractLsb' 12 4 = 0b0010) : decode w = .ld (fieldDR w) (sext 9 w) := by
  simp only [decode, opcode_bits h, BitVec.reduceGetLsb]

theorem decode_ldi (h : w.extractLsb' 12 4 = 0b1010) : decode w = .ldi (fieldDR w) (sext 9 w) := by
  simp only [decode, opcode_bits h, BitVec.reduceGetLsb]

theorem decode_ldr (h : w.extractLsb' 12 4 = 0b0110) :
    decode w = .ldr (fieldDR w) (fieldSR1 w) (sext 6 w) := by
  simp only [decode, opcode_bits h, BitVec.reduceGetLsb]

theorem decode_lea (h : w.extractLsb' 12 4 = 0b1110) : decode w = .lea (fieldDR w) (sext 9 w) := by
  simp only [decode, opcode_bits h, BitVec.reduceGetLsb]

theorem decode_st (h : w.extractLsb' 12 4 = 0b0011) : decode w = .st (fieldDR w) (sext 9 w) := by
  simp only [decode, opcode_bits h, BitVec.reduceGetLsb]

theorem decode_sti (h : w.extractLsb' 12 4 = 0b1011) : decode w = .sti (fieldDR w) (sext 9 w) := by
  simp only [decode, opcode_bits h, BitVec.reduceGetLsb]

theorem decode_str (h : w.extractLsb' 12 4 = 0b0111) :
    decode w = .str (fieldDR w) (fieldSR1 w) (sext 6 w) := by
  simp only [decode, opcode_bits h, BitVec.reduceGetLsb]

/-- TRAP, by its routine's name at the six vectors that have one. -/
theorem decode_trap (h : w.extractLsb' 12 4 = 0b1111) : decode w = (Instr.trap (lowByte w)).named := by
  simp only [decode, opcode_bits h, BitVec.reduceGetLsb, decodeTrap_named]

theorem decode_reserved1000 (h : w.extractLsb' 12 4 = 0b1000) : decode w = .reserved1000 w := by
  simp only [decode, opcode_bits h, BitVec.reduceGetLsb]

theorem decode_reserved1101 (h : w.extractLsb' 12 4 = 0b1101) : decode w = .reserved1101 w := by
  simp only [decode, opcode_bits h, BitVec.reduceGetLsb]

end

end Sys2Proof

namespace Sys2Proof.Machine

/-- Settles O5: one `decode_` equation per clause. The fields are written out in the statement and named in
the equations; the two arms that answer alias names are read through `Instr.core_named`. -/
theorem decodeFollowsTheOpcodeMap : Obligations.DecodeFollowsTheOpcodeMap := by
  intro w
  refine ⟨?addReg, ?addImm, ?andReg, ?andImm, ?not, ?br, ?jmp, ?jsr, ?jsrr, ?ld, ?ldi, ?ldr, ?lea, ?st,
    ?sti, ?str, ?trap, ?reserved1000, ?reserved1101⟩
  case addReg => exact fun h h5 => congrArg Instr.core (decode_addReg h h5)
  case addImm => exact fun h h5 => congrArg Instr.core (decode_addImm h h5)
  case andReg => exact fun h h5 => congrArg Instr.core (decode_andReg h h5)
  case andImm => exact fun h h5 => congrArg Instr.core (decode_andImm h h5)
  case not => exact fun h => congrArg Instr.core (decode_not h)
  case br => exact fun h => congrArg Instr.core (decode_br h)
  case jmp => exact fun h => (congrArg Instr.core (decode_jmp h)).trans (Instr.core_named _)
  case jsr => exact fun h h11 => congrArg Instr.core (decode_jsr h h11)
  case jsrr => exact fun h h11 => congrArg Instr.core (decode_jsrr h h11)
  case ld => exact fun h => congrArg Instr.core (decode_ld h)
  case ldi => exact fun h => congrArg Instr.core (decode_ldi h)
  case ldr => exact fun h => congrArg Instr.core (decode_ldr h)
  case lea => exact fun h => congrArg Instr.core (decode_lea h)
  case st => exact fun h => congrArg Instr.core (decode_st h)
  case sti => exact fun h => congrArg Instr.core (decode_sti h)
  case str => exact fun h => congrArg Instr.core (decode_str h)
  case trap => exact fun h => (congrArg Instr.core (decode_trap h)).trans (Instr.core_named _)
  case reserved1000 => exact fun h => congrArg Instr.core (decode_reserved1000 h)
  case reserved1101 => exact fun h => congrArg Instr.core (decode_reserved1101 h)

end Sys2Proof.Machine

/-! ## The operate instructions (40_operate.md)

Each of the five meanings is one `setRegFlag` (R80). What `setRegFlag` writes and leaves alone is said once;
an instruction adds its decoding and the value of its result. -/

namespace Sys2Proof.Machine

/-! ### A register and its flag written together (R80) -/

@[simp] theorem State.setRegFlag_reg_same (s : State) (r : Reg) (v : Word) : (s.setRegFlag r v).reg r = v :=
  Regs.get_set_same s.regs r v

theorem State.setRegFlag_flagOf (s : State) (r : Reg) (v : Word) :
    FlagOf ((s.setRegFlag r v).reg r) (s.setRegFlag r v).cond := by
  rw [State.setRegFlag_reg_same, State.setRegFlag_cond]
  exact condOf_flagOf v

theorem State.setRegFlag_sameRegsBut (s : State) (r : Reg) (v : Word) : SameRegsBut r s (s.setRegFlag r v) :=
  fun q hq => (State.setRegFlag_reg s r q v).trans (if_neg hq)

theorem State.setRegFlag_sameMemory (s : State) (r : Reg) (v : Word) : SameMemory s (s.setRegFlag r v) :=
  State.setRegFlag_cell s r v

theorem State.setRegFlag_sameOutside (s : State) (r : Reg) (v : Word) : SameOutside s (s.setRegFlag r v) := by
  simp [SameOutside, SameInput, SameControl, SameHost]

/-- COND holds the flag of the new value, and only the register and COND have changed. -/
theorem State.setRegFlag_frame (s : State) (r : Reg) (v : Word) :
    FlagOf ((s.setRegFlag r v).reg r) (s.setRegFlag r v).cond ∧ SameRegsBut r s (s.setRegFlag r v) ∧
      (s.setRegFlag r v).pc = s.pc ∧ SameMemory s (s.setRegFlag r v) ∧ SameOutside s (s.setRegFlag r v) :=
  ⟨s.setRegFlag_flagOf r v, s.setRegFlag_sameRegsBut r v, s.setRegFlag_pc r v, s.setRegFlag_sameMemory r v,
    s.setRegFlag_sameOutside r v⟩

/-! ### The five meanings -/

theorem exec_addReg (dr sr1 sr2 : Reg) (s : State) :
    exec (.addReg dr sr1 sr2) s = .next (s.setRegFlag dr (s.reg sr1 + s.reg sr2)) := rfl

theorem exec_addImm (dr sr1 : Reg) (imm : Word) (s : State) :
    exec (.addImm dr sr1 imm) s = .next (s.setRegFlag dr (s.reg sr1 + imm)) := rfl

theorem exec_andReg (dr sr1 sr2 : Reg) (s : State) :
    exec (.andReg dr sr1 sr2) s = .next (s.setRegFlag dr (s.reg sr1 &&& s.reg sr2)) := rfl

theorem exec_andImm (dr sr1 : Reg) (imm : Word) (s : State) :
    exec (.andImm dr sr1 imm) s = .next (s.setRegFlag dr (s.reg sr1 &&& imm)) := rfl

theorem exec_not (dr sr : Reg) (s : State) :
    exec (.not dr sr) s = .next (s.setRegFlag dr (~~~(s.reg sr))) := rfl

/-! ### The obligations -/

/-- Settles O19: word addition is addition modulo 2^16, and `setRegFlag_frame` gives the flag and the frame. -/
theorem addWritesTheSum : Obligations.AddWritesTheSum := by
  refine ⟨fun _ => decode_addReg, fun _ => decode_addImm, fun dr sr1 sr2 s => ?register,
    fun dr sr1 imm s => ?immediate⟩
  case register =>
    refine ⟨_, exec_addReg dr sr1 sr2 s, ?_, s.setRegFlag_frame dr _⟩
    rw [State.setRegFlag_reg_same, BitVec.toNat_add]
  case immediate =>
    refine ⟨_, exec_addImm dr sr1 imm s, ?_, s.setRegFlag_frame dr _⟩
    rw [State.setRegFlag_reg_same, BitVec.toNat_add]

/-- Settles O20: `&&&` acts bit by bit, and `setRegFlag_frame` gives the flag and the frame. -/
theorem andWritesTheBitwiseAnd : Obligations.AndWritesTheBitwiseAnd := by
  refine ⟨fun _ => decode_andReg, fun _ => decode_andImm, fun dr sr1 sr2 s => ?register,
    fun dr sr1 imm s => ?immediate⟩
  case register =>
    refine ⟨_, exec_andReg dr sr1 sr2 s, fun k => ?_, s.setRegFlag_frame dr _⟩
    rw [State.setRegFlag_reg_same, BitVec.getLsbD_and]
  case immediate =>
    refine ⟨_, exec_andImm dr sr1 imm s, fun k => ?_, s.setRegFlag_frame dr _⟩
    rw [State.setRegFlag_reg_same, BitVec.getLsbD_and]

/-- Settles O21: below bit 16 the complement of a Word has each bit negated, and `setRegFlag_frame` gives the
flag and the frame. -/
theorem notComplementsEveryBit : Obligations.NotComplementsEveryBit := by
  refine ⟨fun _ => decode_not, fun dr sr s => ⟨_, exec_not dr sr s, fun k hk => ?_, s.setRegFlag_frame dr _⟩⟩
  rw [State.setRegFlag_reg_same, BitVec.getLsbD_not, decide_eq_true hk, Bool.true_and]

/-- Settles O22: the two modes differ only in where the second operand comes from. -/
theorem registerAndImmediateModesAgree : Obligations.RegisterAndImmediateModesAgree := by
  intro dr sr1 sr2 imm s h
  constructor
  · rw [exec_addReg, exec_addImm, h]
  · rw [exec_andReg, exec_andImm, h]

end Sys2Proof.Machine

/-! ## Control transfer (41_control.md)

Each of the five meanings ends in a `setPc`, before which JSR and JSRR link. What such an end leaves alone is
said once, without and with the link; an instruction adds its decoding and the value of its target. -/

namespace Sys2Proof.Machine

/-! ### The two ends of a control transfer -/

theorem State.setPc_sameOutside (s : State) (target : Word) : SameOutside s (s.setPc target) := by
  simp [SameOutside, SameInput, SameControl, SameHost]

/-- A new PC leaves everything else as it was. -/
theorem State.setPc_frame (s : State) (target : Word) :
    (s.setPc target).cond = s.cond ∧ SameRegs s (s.setPc target) ∧ SameMemory s (s.setPc target) ∧
      SameOutside s (s.setPc target) :=
  ⟨s.setPc_cond target, s.setPc_reg target, s.setPc_cell target, s.setPc_sameOutside target⟩

@[simp] theorem State.link_reg_r7 (s : State) : s.link.reg .r7 = s.pc := State.setReg_reg_same s .r7 s.pc

theorem State.link_reg_other {s : State} {r : Reg} (h : r ≠ .r7) : s.link.reg r = s.reg r :=
  (s.link_reg r).trans (if_neg h)

theorem State.link_sameOutside (s : State) : SameOutside s s.link := by
  simp [SameOutside, SameInput, SameControl, SameHost]

/-- The link and a new PC leave everything but R7 and PC as it was. -/
theorem State.link_setPc_frame (s : State) (target : Word) :
    (s.link.setPc target).cond = s.cond ∧ SameRegsBut .r7 s (s.link.setPc target) ∧
      SameMemory s (s.link.setPc target) ∧ SameOutside s (s.link.setPc target) :=
  ⟨s.link_cond, fun _ => State.link_reg_other, s.link_cell, s.link_sameOutside⟩

/-! ### The test of BR (R90) -/

/-- Each flag bit of COND = n::z::p asks for its own letter; NONE has no bit set. -/
theorem condTaken_eq_condBits (n z p : Bool) (c : Cond) :
    condTaken n z p c =
      (n && (condBits c).getLsbD 2 || z && (condBits c).getLsbD 1 || p && (condBits c).getLsbD 0) := by
  cases c with
  | n | z | p | none => simp [condTaken, condBits]

/-! ### The five meanings -/

/-- A BR that is not taken sets PC to the value it has. -/
theorem exec_br (n z p : Bool) (off : Word) (s : State) :
    exec (.br n z p off) s = .next (s.setPc (if condTaken n z p s.cond then s.pc + off else s.pc)) := by
  cases h : condTaken n z p s.cond <;> simp only [exec, execBr, h] <;> rfl

theorem exec_jmp (base : Reg) (s : State) : exec (.jmp base) s = .next (s.setPc (s.reg base)) := rfl

theorem exec_ret (s : State) : exec .ret s = .next (s.setPc (s.reg .r7)) := rfl

theorem exec_jsr (off : Word) (s : State) : exec (.jsr off) s = .next (s.link.setPc (s.pc + off)) := rfl

theorem exec_jsrr (base : Reg) (s : State) :
    exec (.jsrr base) s = .next (s.link.setPc (s.link.reg base)) := rfl

/-! ### The obligations -/

/-- Settles O24: BR sets PC by `condTaken`, which `condTaken_eq_condBits` reads from the bits of COND. -/
theorem branchFollowsTheRequestedFlags : Obligations.BranchFollowsTheRequestedFlags := by
  refine ⟨fun _ => decode_br, fun n z p off s => ⟨_, exec_br n z p off s, ?_, s.setPc_frame _⟩⟩
  rw [State.setPc_pc, condTaken_eq_condBits]

/-- Settles O25: the decoder names JMP or RET, whose core is JMP, and both end in a `setPc`. -/
theorem jumpLoadsPcFromItsBase : Obligations.JumpLoadsPcFromItsBase := by
  refine ⟨fun w h => ?decoding, fun base s => ?jmp, fun s => ?ret⟩
  case decoding => rw [decode_jmp h, Instr.core_named]; rfl
  case jmp => exact ⟨_, exec_jmp base s, s.setPc_pc _, s.setPc_frame _⟩
  case ret => exact ⟨_, exec_ret s, s.setPc_pc _, s.setPc_frame _⟩

/-- Settles O26: the link stores PC in R7 and leaves PC itself alone, so the target is relative to it. -/
theorem jsrLinksAndBranches : Obligations.JsrLinksAndBranches :=
  ⟨fun _ => decode_jsr, fun off s =>
    ⟨_, exec_jsr off s, s.link_reg_r7, State.setPc_pc _ _, s.link_setPc_frame _⟩⟩

/-- Settles O27: the base is read after the link, which changes its value only where it is R7. -/
theorem jsrrLinksBeforeItReadsItsBase : Obligations.JsrrLinksBeforeItReadsItsBase := by
  refine ⟨fun _ => decode_jsrr, fun base s =>
    ⟨_, exec_jsrr base s, s.link_reg_r7, fun h => ?r7, fun h => ?other, s.link_setPc_frame _⟩⟩
  case r7 => rw [State.setPc_pc, h, State.link_reg_r7]
  case other => rw [State.setPc_pc, State.link_reg_other h]

end Sys2Proof.Machine

/-! ## LEA and the direct stores (42_load_store.md)

LEA is one `setRegFlag` of its address, as an operate instruction is of its result. ST and STR are one
`storeTo` each; what it writes and leaves alone is said once. -/

namespace Sys2Proof.Machine

/-! ### A register stored in one cell (R104, R106) -/

theorem State.storeTo_cell_same {s : State} (h : Memory.wf s.mem) (r : Reg) (a : Word) :
    (s.storeTo r a).cell a = s.reg r :=
  (State.storeTo_cell h r a a).trans (if_pos rfl)

/-- The other cells keep their values also where the memory is not in its canonical form. -/
theorem State.storeTo_sameMemoryBut (s : State) (r : Reg) (a : Word) :
    SameMemoryBut a s (s.storeTo r a) :=
  fun _ => s.memWrite_cell_other (s.reg r)

theorem State.storeTo_sameOutside (s : State) (r : Reg) (a : Word) : SameOutside s (s.storeTo r a) := by
  simp [SameOutside, SameInput, SameControl, SameHost]

/-- Only the cell stored to has changed. -/
theorem State.storeTo_frame (s : State) (r : Reg) (a : Word) :
    SameMemoryBut a s (s.storeTo r a) ∧ SameRegs s (s.storeTo r a) ∧ (s.storeTo r a).cond = s.cond ∧
      (s.storeTo r a).pc = s.pc ∧ SameOutside s (s.storeTo r a) :=
  ⟨s.storeTo_sameMemoryBut r a, s.storeTo_reg r a, s.storeTo_cond r a, s.storeTo_pc r a,
    s.storeTo_sameOutside r a⟩

/-! ### The three meanings -/

theorem exec_lea (dr : Reg) (off : Word) (s : State) :
    exec (.lea dr off) s = .next (s.setRegFlag dr (s.pc + off)) := rfl

theorem exec_st (sr : Reg) (off : Word) (s : State) :
    exec (.st sr off) s = .next (s.storeTo sr (s.pcRel off)) := rfl

theorem exec_str (sr base : Reg) (off : Word) (s : State) :
    exec (.str sr base off) s = .next (s.storeTo sr (s.baseOff base off)) := rfl

/-! ### The obligations -/

/-- Settles O36: each store is one `storeTo`. Only the read-back of the stored cell needs the canonical form;
the frame is `storeTo_frame`. -/
theorem directStoresWriteOneCell : Obligations.DirectStoresWriteOneCell := by
  refine ⟨fun _ => decode_st, fun _ => decode_str, fun sr off s hwf => ?st, fun sr base off s hwf => ?str⟩
  case st => exact ⟨_, exec_st sr off s, State.storeTo_cell_same hwf sr _, s.storeTo_frame sr _⟩
  case str => exact ⟨_, exec_str sr base off s, State.storeTo_cell_same hwf sr _, s.storeTo_frame sr _⟩

/-- Settles O35: LEA is a `setRegFlag` with no `memRead` before it, so its one law holds at every address,
`P_KBSR` included. -/
theorem leaComputesWithoutReading : Obligations.LeaComputesWithoutReading :=
  ⟨fun _ => decode_lea, fun dr off s =>
    ⟨_, exec_lea dr off s, s.setRegFlag_reg_same dr _, s.setRegFlag_frame dr _⟩⟩

end Sys2Proof.Machine

/-! ## The trap routines that read no input, and the unknown vector (43_trap.md)

OUT, PUTS, PUTSP and HALT, and the fault of an unknown vector, leave the state that TRAP's link leaves but for
the console output and the run state. Their frame is said once, of `trapEnd`; an instruction adds its own
output and run state. -/

namespace Sys2Proof.Machine

/-! ### TRAP's link, and then an output and a run state (R120, R131) -/

/-- `s` after TRAP's link, with console output `o` and run state `r`. -/
def State.trapEnd (s : State) (o : List OutEvent) (r : RunState) : State :=
  { s.trapLink with out := o, run := r }

@[simp] theorem State.trapEnd_out (s : State) (o : List OutEvent) (r : RunState) : (s.trapEnd o r).out = o := rfl

@[simp] theorem State.trapEnd_run (s : State) (o : List OutEvent) (r : RunState) : (s.trapEnd o r).run = r := rfl

/-- But for the link, the output and the run state, nothing has changed. -/
theorem State.trapEnd_frame (s : State) (o : List OutEvent) (r : RunState) :
    LinkedRegs s (s.trapEnd o r) ∧ (s.trapEnd o r).cond = s.cond ∧ (s.trapEnd o r).pc = s.pc ∧
      SameMemory s (s.trapEnd o r) ∧ SameInput s (s.trapEnd o r) ∧ (s.trapEnd o r).params = s.params ∧
      SameHost s (s.trapEnd o r) ∧ (s.trapEnd o r).inPrompted = s.inPrompted :=
  ⟨s.trapLink_reg, s.trapLink_cond, s.trapLink_pc, s.trapLink_cell,
    ⟨s.trapLink_input, s.trapLink_draws, s.trapLink_drawCount⟩, s.trapLink_params,
    ⟨s.trapLink_hostEvents, s.trapLink_hostAfter⟩, s.trapLink_inPrompted⟩

/-- The link writes R7 alone, so the routines find their argument in R0 as it was. -/
theorem State.trapLink_reg_r0 (s : State) : s.trapLink.reg .r0 = s.reg .r0 :=
  s.trapLink_reg_other .r0 (by decide)

/-! ### The string of PUTS and PUTSP (R124, R126) -/

theorem State.putString_device {s : State} {chars : Word → List Byte} (h : (s.scan chars).atDevice = true) :
    s.putString chars = (s.emit (s.scan chars).bytes).raiseFault (.trapDeviceRead s.params.kbsr) := if_pos h

theorem State.putString_zero {s : State} {chars : Word → List Byte} (h : (s.scan chars).atDevice = false) :
    s.putString chars = (s.emit (s.scan chars).bytes).emitFlush := if_neg (Bool.eq_false_iff.mp h)

/-- `scanFrom_spec` says where the scan ends, within the distance from R0 to `P_KBSR`; at either end
`putString` does what R124 asks. -/
theorem State.putString_stringWritten (s : State) (chars : Word → List Byte) :
    StringWritten chars s (s.putString chars) := by
  obtain ⟨k, hk, hpasses, hbytes, hend⟩ := scanFrom_spec chars s.mem s.params.kbsr (s.reg .r0)
  have hsent : (s.scan chars).bytes = s.strBytes chars k := hbytes
  refine ⟨k, hk.trans_lt (BitVec.isLt _), hpasses, ?_⟩
  obtain ⟨haddr, hdev⟩ | ⟨haddr, hzero, hdev⟩ := hend
  · rw [State.putString_device hdev, hsent]
    exact .inl ⟨haddr, rfl, rfl⟩
  · rw [State.putString_zero hdev, hsent]
    exact .inr ⟨haddr, hzero, rfl, rfl⟩

theorem State.trapLink_scan (s : State) (chars : Word → List Byte) : s.trapLink.scan chars = s.scan chars := by
  rw [State.scan_eq, State.scan_eq, State.trapLink_mem, State.trapLink_params, State.trapLink_reg_r0]

/-- The link has no part in what a string routine does to the console and the run. -/
theorem State.trapLink_putString (s : State) (chars : Word → List Byte) :
    s.trapLink.putString chars = s.trapEnd (s.putString chars).out (s.putString chars).run := by
  unfold State.putString
  rw [State.trapLink_scan]
  cases (s.scan chars).atDevice <;> rfl

/-- PUTS and PUTSP differ in `chars` alone. -/
theorem State.trapLink_putString_spec (s : State) (chars : Word → List Byte) :
    StringWritten chars s (s.trapLink.putString chars) ∧ LinkedRegs s (s.trapLink.putString chars) ∧
      (s.trapLink.putString chars).cond = s.cond ∧ (s.trapLink.putString chars).pc = s.pc ∧
      SameMemory s (s.trapLink.putString chars) ∧ SameInput s (s.trapLink.putString chars) ∧
      (s.trapLink.putString chars).params = s.params ∧ SameHost s (s.trapLink.putString chars) ∧
      (s.trapLink.putString chars).inPrompted = s.inPrompted := by
  rw [State.trapLink_putString]
  exact ⟨s.putString_stringWritten chars, s.trapEnd_frame _ _⟩

/-- R126 with the low byte, which is always written, said once. -/
theorem putspChars_eq :
    putspChars = fun w => lowByte w :: (if highByte w = 0 then [] else [highByte w]) := by
  funext w
  unfold putspChars
  split <;> rfl

/-! ### The five meanings -/

theorem exec_out (s : State) :
    exec .out s = .next (s.trapEnd (s.out ++ [.byte (lowByte (s.reg .r0)), .flush]) s.run) := by
  rw [← State.trapLink_reg_r0, ← State.trapLink_out, ← State.runOut_out]
  rfl

theorem exec_puts (s : State) : exec .puts s = .next (s.trapLink.putString putsChars) := rfl

theorem exec_putsp (s : State) : exec .putsp s = .next (s.trapLink.putString putspChars) := rfl

theorem exec_halt (s : State) :
    exec .halt s = .next (s.trapEnd (s.out ++ s.params.haltNotice.map .byte ++ [.flush]) .halted) := rfl

theorem exec_trap_unknown {v : Byte} (h : v.toNat < 0x20 ∨ 0x25 < v.toNat) (s : State) :
    exec (.trap v) s = .next (s.trapEnd s.out (.faulted (.unknownTrap v))) := by
  have htable : trapTable v = none := trapTable_eq_none.mpr h
  simp only [exec, execTrap, htable]
  rfl

/-! ### The obligations -/

/-- Settles O42: PUTS is a string routine that writes each Word's low byte. -/
theorem putsWritesUpToAZeroWord : Obligations.PutsWritesUpToAZeroWord :=
  fun s => ⟨_, exec_puts s, s.trapLink_putString_spec putsChars⟩

/-- Settles O43: PUTSP is a string routine that writes `putspChars`, which the statement spells as
`putspChars_eq` does. -/
theorem putspWritesTwoCharactersAWord : Obligations.PutspWritesTwoCharactersAWord := by
  intro s
  have hspec := s.trapLink_putString_spec putspChars
  have hexec := exec_putsp s
  rw [putspChars_eq] at hspec hexec
  exact ⟨_, hexec, hspec⟩

/-- Settles O41: OUT is a `trapEnd` in the run state it began in. -/
theorem outWritesTheLowByte : Obligations.OutWritesTheLowByte := by
  intro s
  obtain ⟨hregs, hcond, hpc, hmem, hin, hparams, hhost, hprompt⟩ :=
    s.trapEnd_frame (s.out ++ [.byte (lowByte (s.reg .r0)), .flush]) s.run
  exact ⟨_, exec_out s, s.trapEnd_out _ _, hregs, hcond, hpc, hmem, hin,
    ⟨s.trapEnd_run _ _, hparams, hhost⟩, hprompt⟩

/-- Settles O45: HALT is a `trapEnd` in HALTED, where by `step_cases` no step follows. -/
theorem haltWritesItsNoticeAndEndsTheRun : Obligations.HaltWritesItsNoticeAndEndsTheRun := by
  refine fun s => ⟨_, exec_halt s, s.trapEnd_run _ _, fun u hu => ?noStep, rfl,
    s.trapEnd_out _ _, s.trapEnd_frame _ _⟩
  case noStep =>
    obtain ⟨hrunning, -⟩ := step_cases hu
    cases hrunning

/-- Settles O46: the table of R121 has no routine for the vector, so only the link comes before the fault. -/
theorem anUnknownTrapVectorFaults : Obligations.AnUnknownTrapVectorFaults := by
  intro v s hv
  obtain ⟨hregs, hcond, hpc, hrest⟩ := s.trapEnd_frame s.out (.faulted (.unknownTrap v))
  exact ⟨_, exec_trap_unknown hv s, s.trapEnd_run _ _, hregs, hcond, hpc, s.trapEnd_out _ _, hrest⟩

end Sys2Proof.Machine

/-! ## The reserved opcodes (44_reserved.md)

Both raise the one fault, recording their word; `raiseFault` writes the run state alone. -/

namespace Sys2Proof.Machine

/-! ### The two meanings (R150, R151) -/

theorem exec_reserved1000 (ir : Word) (s : State) :
    exec (.reserved1000 ir) s = .next (s.raiseFault (.reservedOpcode ir)) := rfl

theorem exec_reserved1101 (ir : Word) (s : State) :
    exec (.reserved1101 ir) s = .next (s.raiseFault (.reservedOpcode ir)) := rfl

/-! ### The obligation -/

/-- Settles O47: each opcode field decodes by its arm, and each meaning is one `raiseFault`, which is by
definition the state the statement writes out. -/
theorem aReservedOpcodeFaults : Obligations.AReservedOpcodeFaults :=
  ⟨fun _ => decode_reserved1000, fun _ => decode_reserved1101,
    fun ir s => ⟨exec_reserved1000 ir s, exec_reserved1101 ir s⟩⟩

end Sys2Proof.Machine

/-! ## Reset and image files (70_reset_and_hazards.md)

Reset is a record of constants and parameters. An image file is read two bytes at a time: `imageValues`
undoes the spelling of each Word as `wordBytes`, and it refuses a file with a byte left over. -/

namespace Sys2Proof.Machine

/-! ### The state after reset (R180, R181) -/

@[simp] theorem Regs.get_zero (r : Reg) : Regs.zero.get r = 0 := by
  cases r <;> rfl

@[simp] theorem State.resetWith_reg (p : Params) (r : Reg) : (State.resetWith p).reg r = 0 :=
  Regs.get_zero r

@[simp] theorem State.resetWith_cell (p : Params) (a : Word) : (State.resetWith p).cell a = 0 := rfl

/-! ### A Word as two bytes of an image file (R13, R182) -/

/-- A Word in an image file: the high byte, then the low byte (R182). -/
def wordBytes (w : Word) : List Byte := [highByte w, lowByte w]

theorem wordOfBytes_highByte_lowByte (w : Word) : wordOfBytes (highByte w) (lowByte w) = w := by
  rw [wordOfBytes, highByte, lowByte, BitVec.extractLsb'_append_extractLsb'_eq_extractLsb' (by rfl)]
  exact BitVec.extractLsb'_eq_self

/-! ### Reading the values of a file -/

theorem imageValues_flatMap_wordBytes (ws : List Word) :
    imageValues (ws.flatMap wordBytes) = some ws := by
  induction ws with
  | nil => rfl
  | cons w ws ih =>
    change imageValues (highByte w :: lowByte w :: ws.flatMap wordBytes) = some (w :: ws)
    rw [imageValues, ih, wordOfBytes_highByte_lowByte]

theorem imageValues_of_odd : ∀ {bs : List Byte}, bs.length % 2 = 1 → imageValues bs = none
  | [_], _ => rfl
  | hi :: lo :: bs, h => by
    have hbs : bs.length % 2 = 1 := by rw [← h]; exact (Nat.add_mod_right bs.length 2).symm
    rw [imageValues, imageValues_of_odd hbs]

/-! ### Reading an image (R182) -/

theorem parseImage_wordBytes (image : Image) :
    parseImage ((image.origin :: image.words).flatMap wordBytes) = some image := by
  rw [parseImage, imageValues_flatMap_wordBytes]

theorem parseImage_of_odd {file : List Byte} (h : file.length % 2 = 1) : parseImage file = none := by
  rw [parseImage, imageValues_of_odd h]

/-- A file of one byte is an odd one; the empty file has no origin. -/
theorem parseImage_of_short {file : List Byte} (h : file.length < 2) : parseImage file = none := by
  cases file with
  | nil => rfl
  | cons b bs => exact parseImage_of_odd (by rw [List.length_cons] at h ⊢; omega)

/-! ### The obligations -/

/-- Settles O59: `wordBytes` spells out the bytes of the statement. -/
theorem imageFilesAreBigEndian : Obligations.ImageFilesAreBigEndian :=
  ⟨parseImage_wordBytes, fun _ h => h.elim parseImage_of_short parseImage_of_odd⟩

/-- Settles O57: the fields are those of `State.resetWith`; no cell is listed, and an unlisted one is 0. -/
theorem resetLeavesTheStatedValues : Obligations.ResetLeavesTheStatedValues :=
  ⟨fun p => ⟨State.resetWith_reg p, rfl, rfl, State.resetWith_cell p, rfl, rfl⟩, rfl, rfl, rfl⟩

end Sys2Proof.Machine

/-! ## The encoder and the decoder (30_encoding.md)

`decode_encode` decodes an encoded instruction: its format places the opcode field, so one `decode_` equation
applies, and the laws of the format read its fields back. In the other direction `decode_arm` splits the words
into the nineteen arms of the opcode map, and each format puts back the fields that its arm read. -/

namespace Sys2Proof

/-! ### The opcode field of each format (R63) -/

theorem encodeOPR_op (op : BitVec 4) (d s t : Reg) : (encodeOPR op d s t).extractLsb' 12 4 = op := by
  apply BitVec.eq_of_getLsbD_eq
  intro k hk
  interval_cases k <;> simp [encodeOPR]

theorem encodeOPI_op (op : BitVec 4) (d s : Reg) (imm : Word) :
    (encodeOPI op d s imm).extractLsb' 12 4 = op := by
  apply BitVec.eq_of_getLsbD_eq
  intro k hk
  interval_cases k <;> simp [encodeOPI]

theorem encodePC9_op (op : BitVec 4) (d : Reg) (off : Word) : (encodePC9 op d off).extractLsb' 12 4 = op := by
  apply BitVec.eq_of_getLsbD_eq
  intro k hk
  interval_cases k <;> simp [encodePC9]

theorem encodeBASE6_op (op : BitVec 4) (d : BitVec 3) (s : Reg) (low : BitVec 6) :
    (encodeBASE6 op d s low).extractLsb' 12 4 = op := by
  apply BitVec.eq_of_getLsbD_eq
  intro k hk
  interval_cases k <;> simp [encodeBASE6]

theorem encodeBR_op (n z p : Bool) (off : Word) : (encodeBR n z p off).extractLsb' 12 4 = 0b0000 := by
  apply BitVec.eq_of_getLsbD_eq
  intro k hk
  interval_cases k <;> simp [encodeBR]

theorem encodeJSR_op (off : Word) : (encodeJSR off).extractLsb' 12 4 = 0b0100 := by
  apply BitVec.eq_of_getLsbD_eq
  intro k hk
  interval_cases k <;> simp [encodeJSR]

theorem encodeTRAP_op (vect : Byte) : (encodeTRAP vect).extractLsb' 12 4 = 0b1111 := by
  apply BitVec.eq_of_getLsbD_eq
  intro k hk
  interval_cases k <;> simp [encodeTRAP]

/-! ### Decoding an encoded instruction -/

theorem decode_encodeBASE6_jmp (base : Reg) :
    decode (encodeBASE6 0b1100 0b000 base 0b000000) = (Instr.jmp base).named := by
  rw [decode_jmp (encodeBASE6_op ..), encodeBASE6_fieldSR1]

theorem decode_encodeTRAP (vect : Byte) : decode (encodeTRAP vect) = (Instr.trap vect).named := by
  rw [decode_trap (encodeTRAP_op vect), encodeTRAP_lowByte]

/-- Each alias is decoded from its one word (R75). -/
theorem decode_encode (i : Instr) (h : i.fieldsFit = true) : decode (encode i) = i.named := by
  cases i with
  | addReg dr sr1 sr2 =>
    rw [encode, decode_addReg (encodeOPR_op ..) (by simp)]; simp [Instr.named]
  | andReg dr sr1 sr2 =>
    rw [encode, decode_andReg (encodeOPR_op ..) (by simp)]; simp [Instr.named]
  | addImm dr sr1 imm =>
    rw [encode, decode_addImm (encodeOPI_op ..) (by simp)]; simp [Instr.named, fitsSigned_iff.mp h]
  | andImm dr sr1 imm =>
    rw [encode, decode_andImm (encodeOPI_op ..) (by simp)]; simp [Instr.named, fitsSigned_iff.mp h]
  | not dr sr => rw [encode, decode_not (encodeBASE6_op ..)]; simp [Instr.named]
  | br n z p off => rw [encode, decode_br (encodeBR_op ..)]; simp [Instr.named, fitsSigned_iff.mp h]
  | jmp base => exact decode_encodeBASE6_jmp base
  | jsr off => rw [encode, decode_jsr (encodeJSR_op off) (by simp)]; simp [Instr.named, fitsSigned_iff.mp h]
  | jsrr base => rw [encode, decode_jsrr (encodeBASE6_op ..) (by simp)]; simp [Instr.named]
  | ld dr off => rw [encode, decode_ld (encodePC9_op ..)]; simp [Instr.named, fitsSigned_iff.mp h]
  | ldi dr off => rw [encode, decode_ldi (encodePC9_op ..)]; simp [Instr.named, fitsSigned_iff.mp h]
  | lea dr off => rw [encode, decode_lea (encodePC9_op ..)]; simp [Instr.named, fitsSigned_iff.mp h]
  | st sr off => rw [encode, decode_st (encodePC9_op ..)]; simp [Instr.named, fitsSigned_iff.mp h]
  | sti sr off => rw [encode, decode_sti (encodePC9_op ..)]; simp [Instr.named, fitsSigned_iff.mp h]
  | ldr dr base off => rw [encode, decode_ldr (encodeBASE6_op ..)]; simp [Instr.named, fitsSigned_iff.mp h]
  | str sr base off => rw [encode, decode_str (encodeBASE6_op ..)]; simp [Instr.named, fitsSigned_iff.mp h]
  | trap vect => exact decode_encodeTRAP vect
  | reserved1000 ir =>
    have hop : ir.extractLsb' 12 4 = 0b1000 := beq_iff_eq.mp h
    rw [encode, encodeRES_self hop, decode_reserved1000 hop]; rfl
  | reserved1101 ir =>
    have hop : ir.extractLsb' 12 4 = 0b1101 := beq_iff_eq.mp h
    rw [encode, encodeRES_self hop, decode_reserved1101 hop]; rfl
  | ret => exact decode_encodeBASE6_jmp .r7
  | getc => exact decode_encodeTRAP 0x20
  | out => exact decode_encodeTRAP 0x21
  | puts => exact decode_encodeTRAP 0x22
  | inp => exact decode_encodeTRAP 0x23
  | putsp => exact decode_encodeTRAP 0x24
  | halt => exact decode_encodeTRAP 0x25

theorem wellFormed_iff {i : Instr} : WellFormed i ↔ i.fieldsFit = true ∧ i.named = i := by
  simp [WellFormed, Instr.wellFormed]

/-! ### The arms of the decoder (R66, R67) -/

/-- The nineteen arms of the opcode map: the opcode field with the mode bit of ADD, AND and JSR, and the
instruction read from the word. JMP and TRAP are read under the decoder's name. -/
inductive DecodeArm (w : Word) : Instr → Prop
  | addReg (hop : w.extractLsb' 12 4 = 0b0001) (h5 : w.getLsbD 5 = false) :
      DecodeArm w (.addReg (fieldDR w) (fieldSR1 w) (fieldSR2 w))
  | addImm (hop : w.extractLsb' 12 4 = 0b0001) (h5 : w.getLsbD 5 = true) :
      DecodeArm w (.addImm (fieldDR w) (fieldSR1 w) (sext 5 w))
  | andReg (hop : w.extractLsb' 12 4 = 0b0101) (h5 : w.getLsbD 5 = false) :
      DecodeArm w (.andReg (fieldDR w) (fieldSR1 w) (fieldSR2 w))
  | andImm (hop : w.extractLsb' 12 4 = 0b0101) (h5 : w.getLsbD 5 = true) :
      DecodeArm w (.andImm (fieldDR w) (fieldSR1 w) (sext 5 w))
  | not (hop : w.extractLsb' 12 4 = 0b1001) : DecodeArm w (.not (fieldDR w) (fieldSR1 w))
  | br (hop : w.extractLsb' 12 4 = 0b0000) :
      DecodeArm w (.br (w.getLsbD 11) (w.getLsbD 10) (w.getLsbD 9) (sext 9 w))
  | jmp (hop : w.extractLsb' 12 4 = 0b1100) : DecodeArm w (Instr.jmp (fieldSR1 w)).named
  | jsr (hop : w.extractLsb' 12 4 = 0b0100) (h11 : w.getLsbD 11 = true) : DecodeArm w (.jsr (sext 11 w))
  | jsrr (hop : w.extractLsb' 12 4 = 0b0100) (h11 : w.getLsbD 11 = false) :
      DecodeArm w (.jsrr (fieldSR1 w))
  | ld (hop : w.extractLsb' 12 4 = 0b0010) : DecodeArm w (.ld (fieldDR w) (sext 9 w))
  | ldi (hop : w.extractLsb' 12 4 = 0b1010) : DecodeArm w (.ldi (fieldDR w) (sext 9 w))
  | ldr (hop : w.extractLsb' 12 4 = 0b0110) : DecodeArm w (.ldr (fieldDR w) (fieldSR1 w) (sext 6 w))
  | lea (hop : w.extractLsb' 12 4 = 0b1110) : DecodeArm w (.lea (fieldDR w) (sext 9 w))
  | st (hop : w.extractLsb' 12 4 = 0b0011) : DecodeArm w (.st (fieldDR w) (sext 9 w))
  | sti (hop : w.extractLsb' 12 4 = 0b1011) : DecodeArm w (.sti (fieldDR w) (sext 9 w))
  | str (hop : w.extractLsb' 12 4 = 0b0111) : DecodeArm w (.str (fieldDR w) (fieldSR1 w) (sext 6 w))
  | trap (hop : w.extractLsb' 12 4 = 0b1111) : DecodeArm w (Instr.trap (lowByte w)).named
  | reserved1000 (hop : w.extractLsb' 12 4 = 0b1000) : DecodeArm w (.reserved1000 w)
  | reserved1101 (hop : w.extractLsb' 12 4 = 0b1101) : DecodeArm w (.reserved1101 w)

theorem opcode_cases (op : BitVec 4) :
    op = 0b0000 ∨ op = 0b0001 ∨ op = 0b0010 ∨ op = 0b0011 ∨ op = 0b0100 ∨ op = 0b0101 ∨ op = 0b0110 ∨
      op = 0b0111 ∨ op = 0b1000 ∨ op = 0b1001 ∨ op = 0b1010 ∨ op = 0b1011 ∨ op = 0b1100 ∨ op = 0b1101 ∨
      op = 0b1110 ∨ op = 0b1111 := by
  revert op; decide

theorem decode_arm (w : Word) : DecodeArm w (decode w) := by
  obtain h | h | h | h | h | h | h | h | h | h | h | h | h | h | h | h := opcode_cases (w.extractLsb' 12 4)
  · rw [decode_br h]; exact .br h
  · cases h5 : w.getLsbD 5
    · rw [decode_addReg h h5]; exact .addReg h h5
    · rw [decode_addImm h h5]; exact .addImm h h5
  · rw [decode_ld h]; exact .ld h
  · rw [decode_st h]; exact .st h
  · cases h11 : w.getLsbD 11
    · rw [decode_jsrr h h11]; exact .jsrr h h11
    · rw [decode_jsr h h11]; exact .jsr h h11
  · cases h5 : w.getLsbD 5
    · rw [decode_andReg h h5]; exact .andReg h h5
    · rw [decode_andImm h h5]; exact .andImm h h5
  · rw [decode_ldr h]; exact .ldr h
  · rw [decode_str h]; exact .str h
  · rw [decode_reserved1000 h]; exact .reserved1000 h
  · rw [decode_not h]; exact .not h
  · rw [decode_ldi h]; exact .ldi h
  · rw [decode_sti h]; exact .sti h
  · rw [decode_jmp h]; exact .jmp h
  · rw [decode_reserved1101 h]; exact .reserved1101 h
  · rw [decode_lea h]; exact .lea h
  · rw [decode_trap h]; exact .trap h

/-! ### Every word decodes to a well-formed instruction (R60, R64) -/

/-- The low bits of a sign extension are the bits extended. -/
theorem extractLsb'_sext {n : Nat} (hn : n ≤ 16) (v : Word) :
    (sext n v).extractLsb' 0 n = v.extractLsb' 0 n := by
  apply BitVec.eq_of_getLsbD_eq
  intro k hk
  have hk' : k < 16 := by omega
  simp only [sext, BitVec.getLsbD_extractLsb', BitVec.getLsbD_signExtend, hk, hk', Nat.zero_add, decide_true,
    Bool.true_and, if_true]

theorem fitsSigned_sext {n : Nat} (hn : n ≤ 16) (v : Word) : fitsSigned n (sext n v) = true :=
  fitsSigned_iff.mpr (sext_congr (extractLsb'_sext hn v))

/-- A name is an alias's, or the instruction had no alias. -/
theorem Instr.named_named (i : Instr) : i.named.named = i.named := by
  generalize hn : i.named = j
  unfold Instr.named at hn
  split_ifs at hn with h1 h2 h3 h4 h5 h6 h7
  case neg =>
    subst hn
    simp only [Instr.named, h1, h2, h3, h4, h5, h6, h7, if_false]
  all_goals subst hn; rfl

theorem Instr.fieldsFit_named {i : Instr} (h : i.fieldsFit = true) : i.named.fieldsFit = true := by
  unfold Instr.named
  split_ifs
  case neg => exact h
  all_goals rfl

theorem Instr.wellFormed_named {i : Instr} (h : i.fieldsFit = true) : WellFormed i.named :=
  wellFormed_iff.mpr ⟨Instr.fieldsFit_named h, i.named_named⟩

theorem DecodeArm.wellFormed {w : Word} {i : Instr} (h : DecodeArm w i) : WellFormed i := by
  cases h with
  | addReg | andReg | not | jsrr => exact wellFormed_iff.mpr ⟨rfl, rfl⟩
  | addImm | andImm | br | jsr | ld | ldi | ldr | lea | st | sti | str =>
    exact wellFormed_iff.mpr ⟨fitsSigned_sext (by decide) w, rfl⟩
  | jmp | trap => exact Instr.wellFormed_named rfl
  | reserved1000 hop | reserved1101 hop => exact wellFormed_iff.mpr ⟨beq_iff_eq.mpr hop, rfl⟩

theorem decode_wellFormed (w : Word) : WellFormed (decode w) := (decode_arm w).wellFormed

/-! ### Encoding a decoded word (R63, R68) -/

theorem encode_named (i : Instr) : encode i.named = encode i := by
  unfold Instr.named
  split_ifs with h1 h2 h3 h4 h5 h6 h7
  case neg => rfl
  all_goals subst i; rfl

theorem ignoredBits_named (i : Instr) : ignoredBits i.named = ignoredBits i := by
  unfold Instr.named
  split_ifs with h1 h2 h3 h4 h5 h6 h7
  case neg => rfl
  all_goals subst i; rfl

section
variable {w : Word} {op : BitVec 4} (hop : w.extractLsb' 12 4 = op)
include hop

theorem encodeOPR_fields (h5 : w.getLsbD 5 = false) :
    encodeOPR op (fieldDR w) (fieldSR1 w) (fieldSR2 w) &&& ~~~0x0018 = w &&& ~~~0x0018 := by
  subst hop
  apply BitVec.eq_of_getLsbD_eq
  intro k hk
  interval_cases k <;> simp_all [encodeOPR, fieldDR, fieldSR1, fieldSR2]

theorem encodeOPI_fields (h5 : w.getLsbD 5 = true) :
    encodeOPI op (fieldDR w) (fieldSR1 w) (sext 5 w) = w := by
  subst hop
  apply BitVec.eq_of_getLsbD_eq
  intro k hk
  interval_cases k <;> simp_all [encodeOPI, fieldDR, fieldSR1, extractLsb'_sext]

theorem encodePC9_fields : encodePC9 op (fieldDR w) (sext 9 w) = w := by
  subst hop
  apply BitVec.eq_of_getLsbD_eq
  intro k hk
  interval_cases k <;> simp [encodePC9, fieldDR, extractLsb'_sext]

theorem encodeBASE6_fields :
    encodeBASE6 op (fieldDR w).bits (fieldSR1 w) ((sext 6 w).extractLsb' 0 6) = w := by
  subst hop
  apply BitVec.eq_of_getLsbD_eq
  intro k hk
  interval_cases k <;> simp [encodeBASE6, fieldDR, fieldSR1, extractLsb'_sext]

theorem encodeBASE6_fieldsNOT :
    encodeBASE6 op (fieldDR w).bits (fieldSR1 w) 0b111111 &&& ~~~0x003F = w &&& ~~~0x003F := by
  subst hop
  apply BitVec.eq_of_getLsbD_eq
  intro k hk
  interval_cases k <;> simp [encodeBASE6, fieldDR, fieldSR1]

theorem encodeBASE6_fieldsJMP :
    encodeBASE6 op 0b000 (fieldSR1 w) 0b000000 &&& ~~~0x0E3F = w &&& ~~~0x0E3F := by
  subst hop
  apply BitVec.eq_of_getLsbD_eq
  intro k hk
  interval_cases k <;> simp [encodeBASE6, fieldSR1]

theorem encodeBASE6_fieldsJSRR (h11 : w.getLsbD 11 = false) :
    encodeBASE6 op 0b000 (fieldSR1 w) 0b000000 &&& ~~~0x063F = w &&& ~~~0x063F := by
  subst hop
  apply BitVec.eq_of_getLsbD_eq
  intro k hk
  interval_cases k <;> simp_all [encodeBASE6, fieldSR1]

end

theorem encodeBR_fields {w : Word} (hop : w.extractLsb' 12 4 = 0b0000) :
    encodeBR (w.getLsbD 11) (w.getLsbD 10) (w.getLsbD 9) (sext 9 w) = w := by
  have hbits := opcode_bits hop
  apply BitVec.eq_of_getLsbD_eq
  intro k hk
  interval_cases k <;> simp_all [encodeBR, extractLsb'_sext]

theorem encodeJSR_fields {w : Word} (hop : w.extractLsb' 12 4 = 0b0100) (h11 : w.getLsbD 11 = true) :
    encodeJSR (sext 11 w) = w := by
  have hbits := opcode_bits hop
  apply BitVec.eq_of_getLsbD_eq
  intro k hk
  interval_cases k <;> simp_all [encodeJSR, extractLsb'_sext]

theorem encodeTRAP_fields {w : Word} (hop : w.extractLsb' 12 4 = 0b1111) :
    encodeTRAP (lowByte w) &&& ~~~0x0F00 = w &&& ~~~0x0F00 := by
  have hbits := opcode_bits hop
  apply BitVec.eq_of_getLsbD_eq
  intro k hk
  interval_cases k <;> simp_all [encodeTRAP, lowByte]

theorem DecodeArm.encode_readBits {w : Word} {i : Instr} (h : DecodeArm w i) :
    encode i &&& ~~~(ignoredBits i) = w &&& ~~~(ignoredBits i) := by
  cases h with
  | addReg hop h5 | andReg hop h5 => exact encodeOPR_fields hop h5
  | addImm hop h5 | andImm hop h5 => exact congrArg (· &&& _) (encodeOPI_fields hop h5)
  | not hop => exact encodeBASE6_fieldsNOT hop
  | br hop => exact congrArg (· &&& _) (encodeBR_fields hop)
  | jmp hop => rw [encode_named, ignoredBits_named]; exact encodeBASE6_fieldsJMP hop
  | jsr hop h11 => exact congrArg (· &&& _) (encodeJSR_fields hop h11)
  | jsrr hop h11 => exact encodeBASE6_fieldsJSRR hop h11
  | ld hop | ldi hop | lea hop | st hop | sti hop => exact congrArg (· &&& _) (encodePC9_fields hop)
  | ldr hop | str hop => exact congrArg (· &&& _) (encodeBASE6_fields hop)
  | trap hop => rw [encode_named, ignoredBits_named]; exact encodeTRAP_fields hop
  | reserved1000 hop | reserved1101 hop => exact congrArg (· &&& _) (encodeRES_self hop)

/-! ### Changing ignored bits (R68) -/

/-- A field outside the mask `m` does not see a change under it. -/
theorem extractLsb'_xor_and {m : Word} {lo n : Nat} (h : m.extractLsb' lo n = 0) (w x : Word) :
    (w ^^^ (x &&& m)).extractLsb' lo n = w.extractLsb' lo n := by
  rw [BitVec.extractLsb'_xor, BitVec.extractLsb'_and, h]
  simp

theorem getLsbD_xor_and {m : Word} {k : Nat} (h : m.getLsbD k = false) (w x : Word) :
    (w ^^^ (x &&& m)).getLsbD k = w.getLsbD k := by
  simp only [BitVec.getLsbD_xor, BitVec.getLsbD_and, h, Bool.and_false, Bool.xor_false]

theorem decode_xor_of_ignoredBits_eq_zero {w x : Word} (h : ignoredBits (decode w) = 0) :
    decode (w ^^^ (x &&& ignoredBits (decode w))) = decode w := by
  rw [h]; simp

theorem DecodeArm.decode_xor {w : Word} {i : Instr} (h : DecodeArm w i) (hi : decode w = i) (x : Word) :
    decode (w ^^^ (x &&& ignoredBits i)) = i := by
  cases h with
  | addReg hop h5 =>
    rw [ignoredBits, decode_addReg ((extractLsb'_xor_and rfl w x).trans hop) ((getLsbD_xor_and rfl w x).trans h5)]
    simp (disch := decide) only [fieldDR, fieldSR1, fieldSR2, extractLsb'_xor_and]
  | andReg hop h5 =>
    rw [ignoredBits, decode_andReg ((extractLsb'_xor_and rfl w x).trans hop) ((getLsbD_xor_and rfl w x).trans h5)]
    simp (disch := decide) only [fieldDR, fieldSR1, fieldSR2, extractLsb'_xor_and]
  | not hop =>
    rw [ignoredBits, decode_not ((extractLsb'_xor_and rfl w x).trans hop)]
    simp (disch := decide) only [fieldDR, fieldSR1, extractLsb'_xor_and]
  | jmp hop =>
    rw [ignoredBits_named, ignoredBits, decode_jmp ((extractLsb'_xor_and rfl w x).trans hop)]
    simp (disch := decide) only [fieldSR1, extractLsb'_xor_and]
  | jsrr hop h11 =>
    rw [ignoredBits, decode_jsrr ((extractLsb'_xor_and rfl w x).trans hop) ((getLsbD_xor_and rfl w x).trans h11)]
    simp (disch := decide) only [fieldSR1, extractLsb'_xor_and]
  | trap hop =>
    rw [ignoredBits_named, ignoredBits, decode_trap ((extractLsb'_xor_and rfl w x).trans hop)]
    simp (disch := decide) only [lowByte, extractLsb'_xor_and]
  | addImm | andImm | br | jsr | ld | ldi | ldr | lea | st | sti | str | reserved1000 | reserved1101 =>
    exact hi ▸ decode_xor_of_ignoredBits_eq_zero (hi ▸ rfl)

/-! ### The extensions (00_scope.md R14) -/

theorem sext_getLsbD {n k : Nat} (v : Word) (hn : 1 ≤ n) (hk : k < 16) :
    (sext n v).getLsbD k = if k < n then v.getLsbD k else v.getLsbD (n - 1) := by
  simp only [sext, BitVec.getLsbD_signExtend, hk, decide_true, Bool.true_and, BitVec.getLsbD_extractLsb',
    BitVec.msb_eq_getLsbD_last, Nat.zero_add]
  split
  · next hkn => rw [decide_eq_true hkn, Bool.true_and]
  · rw [decide_eq_true (by omega), Bool.true_and]

theorem zext_getLsbD (b : Byte) (k : Nat) : (zext b).getLsbD k = if k < 8 then b.getLsbD k else false := by
  simp only [zext, BitVec.truncate_eq_setWidth, BitVec.getLsbD_setWidth]
  split
  · next hk => rw [decide_eq_true (by omega), Bool.true_and]
  · next hk => rw [BitVec.getLsbD_of_ge b k (by omega), Bool.and_false]

end Sys2Proof

namespace Sys2Proof.Machine

/-! ### The obligations -/

/-- Settles O1: `decode_encode`, and a well-formed instruction has its own name. -/
theorem decodeOfEncodeIsTheInstruction : Obligations.DecodeOfEncodeIsTheInstruction := by
  refine fun i => ⟨decode_encode i, fun h => ?wellFormed⟩
  obtain ⟨hfit, hname⟩ := wellFormed_iff.mp h
  rw [decode_encode i hfit, hname]

/-- Settles O2: arm by arm, each format puts back the fields that its arm read. -/
theorem encodeOfDecodeRestoresEveryReadBit : Obligations.EncodeOfDecodeRestoresEveryReadBit :=
  fun w => (decode_arm w).encode_readBits

/-- Settles O3: arm by arm, the opcode, the mode bit and the fields lie outside the ignored bits. -/
theorem ignoredBitsHaveNoEffect : Obligations.IgnoredBitsHaveNoEffect :=
  fun w x => (decode_arm w).decode_xor rfl x

/-- Settles O4: the fields of a word fit, and the decoder's names are final. -/
theorem everyWordDecodesToAWellFormedInstruction : Obligations.EveryWordDecodesToAWellFormedInstruction :=
  decode_wellFormed

/-- Settles O6: twelve closed words. -/
theorem sampleWordsDecode : Obligations.SampleWordsDecode := by
  unfold Obligations.SampleWordsDecode
  decide

/-- Settles O7: a sign extension repeats the top bit of its field, and at 16 bits the field is the Word. -/
theorem signAndZeroExtension : Obligations.SignAndZeroExtension := by
  refine ⟨fun n v k hn _ hk => sext_getLsbD v hn hk, fun v => ?identity, zext_getLsbD⟩
  simp [sext]

end Sys2Proof.Machine

/-! ## GETC and IN (43_trap.md R122, R125)

Both end in one form, `trapRead`, whose frame is said once; without a byte they hold. -/

namespace Sys2Proof.Machine

/-! ### The end of a routine that has read a byte -/

/-- `s` after TRAP's link, with `w` in R0 and its flag in COND if `P_TRAP_SETS_CC`; input `cs` is left, the
output is `o`, and `p` says whether a prompt still waits for its byte. -/
def State.trapRead (s : State) (cs : List Byte) (o : List OutEvent) (w : Word) (p : Bool) : State :=
  { (s.trapLink.setReg .r0 w).trapSetcc with input := cs, out := o, inPrompted := p }

section
variable (s : State) (cs : List Byte) (o : List OutEvent) (w : Word) (p : Bool)

@[simp] theorem State.trapRead_pc : (s.trapRead cs o w p).pc = s.pc := rfl
@[simp] theorem State.trapRead_mem : (s.trapRead cs o w p).mem = s.mem := rfl
@[simp] theorem State.trapRead_cell (a : Word) : (s.trapRead cs o w p).cell a = s.cell a := rfl
@[simp] theorem State.trapRead_out : (s.trapRead cs o w p).out = o := rfl
@[simp] theorem State.trapRead_input : (s.trapRead cs o w p).input = cs := rfl
@[simp] theorem State.trapRead_inPrompted : (s.trapRead cs o w p).inPrompted = p := rfl
@[simp] theorem State.trapRead_run : (s.trapRead cs o w p).run = s.run := rfl
@[simp] theorem State.trapRead_params : (s.trapRead cs o w p).params = s.params := rfl

@[simp] theorem State.trapRead_reg_r0 : (s.trapRead cs o w p).reg .r0 = w :=
  State.setReg_reg_same s.trapLink .r0 w

theorem State.trapRead_linkedRegsBut : LinkedRegsBut .r0 s (s.trapRead cs o w p) :=
  fun r hr => ((s.trapLink.setReg_reg .r0 r w).trans (if_neg hr)).trans (s.trapLink_reg r)

theorem State.trapRead_sameControl : SameControl s (s.trapRead cs o w p) := ⟨rfl, rfl, rfl, rfl⟩

theorem State.trapRead_cond :
    (s.trapRead cs o w p).cond = if s.params.trapSetsCC then condOf w else s.cond := by
  change (if s.params.trapSetsCC then condOf ((s.trapLink.setReg .r0 w).reg .r0) else s.cond) = _
  rw [State.setReg_reg_same]

theorem State.trapRead_flagOf (h : s.params.trapSetsCC = true) :
    FlagOf ((s.trapRead cs o w p).reg .r0) (s.trapRead cs o w p).cond := by
  rw [State.trapRead_reg_r0, State.trapRead_cond, if_pos h]
  exact condOf_flagOf w

theorem State.trapRead_cond_of_not_setsCC (h : s.params.trapSetsCC = false) :
    (s.trapRead cs o w p).cond = s.cond := by
  rw [State.trapRead_cond, if_neg (Bool.eq_false_iff.mp h)]

end

/-! ### The two meanings -/

/-- The prompt is added to the output unless it stands there already (notes/assumptions/10.md). -/
theorem State.prompted_out_eq (s : State) : s.prompted.out =
    s.out ++ (if s.inPrompted then [] else s.params.inPrompt.map .byte ++ [.flush]) := by
  rw [State.prompted_out]
  split <;> simp

section
variable {s : State}

theorem exec_getc_cons {c : Byte} {cs : List Byte} (h : s.input = c :: cs) :
    exec .getc s = .next (s.trapRead cs s.out (zext c) s.inPrompted) := by
  simp only [exec, execGetc, runRoutine, State.runGetc_cons (s := s.trapLink) h]
  rfl

theorem exec_getc_nil (h : s.input = []) : exec .getc s = .next s.hold := by
  simp only [exec, execGetc, runRoutine, State.runGetc_eq_none.mpr (show s.trapLink.input = [] from h)]
  rfl

theorem exec_inp_cons {c : Byte} {cs : List Byte} (h : s.input = c :: cs) :
    exec .inp s = .next (s.trapRead cs (s.prompted.out ++ [OutEvent.byte c, .flush])
      (inWord s.params.inExt c) false) := by
  rw [List.append_cons]
  simp only [exec, execInp, runRoutine, State.runIn_cons (s := s.trapLink.prompted) h]
  rfl

theorem exec_inp_nil (h : s.input = []) : exec .inp s = .next s.holdIn := by
  simp only [exec, execInp, runRoutine,
    State.runIn_eq_none.mpr (show s.trapLink.prompted.input = [] from h)]

end

/-! ### The routines of the table (R121) -/

/-- The vector that selects a routine. -/
@[simp] def TrapRoutine.vect : TrapRoutine → Byte
  | .getc => 0x20
  | .out => 0x21
  | .puts => 0x22
  | .inp => 0x23
  | .putsp => 0x24
  | .halt => 0x25

theorem trapTable_eq_some {v : Byte} {r : TrapRoutine} (h : trapTable v = some r) : v = r.vect := by
  unfold trapTable at h
  split_ifs at h with hv hv hv hv hv hv
  all_goals obtain rfl := Option.some.inj h; exact hv

/-- A vector selects a routine or is unknown. -/
theorem vector_cases (v : Byte) : (∃ r : TrapRoutine, v = r.vect) ∨ v.toNat < 0x20 ∨ 0x25 < v.toNat := by
  cases h : trapTable v with
  | none => exact .inr (trapTable_eq_none.mp h)
  | some r => exact .inl ⟨r, trapTable_eq_some h⟩

/-- The states in which a routine run from `s` can end, by what the input holds. -/
inductive RoutineEnds (s : State) : TrapRoutine → State → Prop
  | getc {c : Byte} {cs : List Byte} (hi : s.input = c :: cs) :
      RoutineEnds s .getc (s.trapRead cs s.out (zext c) s.inPrompted)
  | getcHold (hi : s.input = []) : RoutineEnds s .getc s.hold
  | out : RoutineEnds s .out (s.trapEnd (s.out ++ [.byte (lowByte (s.reg .r0)), .flush]) s.run)
  | puts : RoutineEnds s .puts (s.trapEnd (s.putString putsChars).out (s.putString putsChars).run)
  | inp {c : Byte} {cs : List Byte} (hi : s.input = c :: cs) :
      RoutineEnds s .inp (s.trapRead cs (s.prompted.out ++ [OutEvent.byte c, .flush]) (inWord s.params.inExt c) false)
  | inpHold (hi : s.input = []) : RoutineEnds s .inp s.holdIn
  | putsp : RoutineEnds s .putsp (s.trapEnd (s.putString putspChars).out (s.putString putspChars).run)
  | halt : RoutineEnds s .halt (s.trapEnd (s.out ++ s.params.haltNotice.map .byte ++ [.flush]) .halted)

theorem exec_routine_ends (r : TrapRoutine) (s : State) :
    ∃ t, exec (.trap r.vect) s = .next t ∧ RoutineEnds s r t := by
  cases r with
  | getc =>
    cases hi : s.input with
    | nil => exact ⟨_, exec_getc_nil hi, .getcHold hi⟩
    | cons c cs => exact ⟨_, exec_getc_cons hi, .getc hi⟩
  | out => exact ⟨_, exec_out s, .out⟩
  | puts => exact ⟨_, congrArg Host.Outcome.next (s.trapLink_putString putsChars), .puts⟩
  | inp =>
    cases hi : s.input with
    | nil => exact ⟨_, exec_inp_nil hi, .inpHold hi⟩
    | cons c cs => exact ⟨_, exec_inp_cons hi, .inp hi⟩
  | putsp => exact ⟨_, congrArg Host.Outcome.next (s.trapLink_putString putspChars), .putsp⟩
  | halt => exact ⟨_, exec_halt s, .halt⟩

/-- What no routine that ends changes (R131). -/
theorem RoutineEnds.frame {s t : State} {r : TrapRoutine} (h : RoutineEnds s r t)
    (hin : r = .getc ∨ r = .inp → s.input ≠ []) :
    t.pc = s.pc ∧ SameMemory s t ∧ LinkedRegsBut .r0 s t ∧ t.params = s.params ∧ SameHost s t ∧
      t.draws = s.draws ∧ t.drawCount = s.drawCount := by
  cases h with
  | getc | inp =>
    exact ⟨rfl, s.trapRead_cell _ _ _ _, s.trapRead_linkedRegsBut _ _ _ _, rfl, ⟨rfl, rfl⟩, rfl, rfl⟩
  | out | puts | putsp | halt =>
    exact ⟨rfl, s.trapLink_cell, fun r _ => s.trapLink_reg r, rfl, ⟨rfl, rfl⟩, rfl, rfl⟩
  | getcHold hi => exact absurd hi (hin (.inl rfl))
  | inpHold hi => exact absurd hi (hin (.inr rfl))

/-! ### The obligations -/

/-- Settles O38: each alias runs the routine that the table gives for its vector. -/
theorem anAliasRunsAsItsCoreInstruction : Obligations.AnAliasRunsAsItsCoreInstruction := by
  intro i s
  cases i <;> rfl

/-- Settles O40: with a byte GETC is a `trapRead` that leaves the output as it was. -/
theorem getcReadsOneCharacter : Obligations.GetcReadsOneCharacter :=
  fun s _ _ h => ⟨_, exec_getc_cons h, s.trapRead_reg_r0 _ _ _ _, s.trapRead_linkedRegsBut _ _ _ _, rfl,
    s.trapRead_flagOf _ _ _ _, s.trapRead_cond_of_not_setsCC _ _ _ _, rfl, rfl, rfl, rfl,
    s.trapRead_cell _ _ _ _, s.trapRead_sameControl _ _ _ _, rfl⟩

/-- Settles O44: with a byte IN is a `trapRead` whose output is the prompt's and then the echo. -/
theorem inPromptsReadsAndEchoes : Obligations.InPromptsReadsAndEchoes := by
  refine fun s c cs h => ⟨_, exec_inp_cons h, ?output, fun he => ?zero, fun he => ?sign,
    s.trapRead_linkedRegsBut _ _ _ _, rfl, s.trapRead_flagOf _ _ _ _,
    s.trapRead_cond_of_not_setsCC _ _ _ _, rfl, rfl, rfl, s.trapRead_cell _ _ _ _,
    s.trapRead_sameControl _ _ _ _, rfl⟩
  case output => rw [State.trapRead_out, State.prompted_out_eq]
  case zero => rw [State.trapRead_reg_r0, he]; rfl
  case sign => rw [State.trapRead_reg_r0, he]; rfl

/-- Settles O39: `RoutineEnds.frame` is the frame, and each routine's own clauses are read off its end; the
clauses of the other vectors do not apply. -/
theorem trapCompletesForEveryKnownVector : Obligations.TrapCompletesForEveryKnownVector := by
  intro v s hlo hhi hin
  obtain ⟨r, rfl⟩ | hunknown := vector_cases v
  case inr => omega
  obtain ⟨t, hexec, hends⟩ := exec_routine_ends r s
  obtain ⟨hpc, hmem, hregs, hparams, hhost, hdraws, hcount⟩ :=
    hends.frame fun h => hin (h.imp (congrArg TrapRoutine.vect) (congrArg TrapRoutine.vect))
  refine ⟨t, hexec, hpc, hmem, hregs, hparams, hhost, hdraws, hcount, ?_⟩
  cases hends with
  | getc hi =>
    refine ⟨fun _ => ⟨_, hi, s.trapRead_reg_r0 _ _ _ _, rfl⟩, by simp, fun _ =>
      ⟨rfl, s.trapRead_flagOf _ _ _ _, s.trapRead_cond_of_not_setsCC _ _ _ _⟩, ?_⟩
    simp
  | inp hi =>
    refine ⟨by simp, fun _ => ⟨_, hi, ?_, ?_⟩, fun _ =>
      ⟨rfl, s.trapRead_flagOf _ _ _ _, s.trapRead_cond_of_not_setsCC _ _ _ _⟩, ?_⟩
    · rw [State.trapRead_reg_r0]; rfl
    · rw [State.trapRead_out, State.prompted_out_eq]
    · simp
  | getcHold hi => exact absurd hi (hin (.inl rfl))
  | inpHold hi => exact absurd hi (hin (.inr rfl))
  | out =>
    exact ⟨by simp, by simp, by simp, fun _ _ => ⟨s.trapLink_reg_r0, rfl, rfl⟩, rfl, fun _ => ⟨rfl, rfl⟩,
      by simp, by simp, by simp⟩
  | puts =>
    exact ⟨by simp, by simp, by simp, fun _ _ => ⟨s.trapLink_reg_r0, rfl, rfl⟩, rfl, by simp,
      fun _ => s.putString_stringWritten putsChars, by simp, by simp⟩
  | putsp =>
    exact ⟨by simp, by simp, by simp, fun _ _ => ⟨s.trapLink_reg_r0, rfl, rfl⟩, rfl, by simp, by simp,
      fun _ => putspChars_eq ▸ s.putString_stringWritten putspChars, by simp⟩
  | halt =>
    exact ⟨by simp, by simp, by simp, fun _ _ => ⟨s.trapLink_reg_r0, rfl, rfl⟩, rfl, by simp, by simp,
      by simp, fun _ => ⟨rfl, rfl⟩⟩

end Sys2Proof.Machine

/-! ## What an instruction can do

`exec_effect` is the one inversion of `exec`: the state an instruction ends in is one of the forms of `Effect`.
Each law of the executions, and with `step_cases` each law of the steps, is a case analysis of it. -/

namespace Sys2Proof.Machine

/-- The states in which `i`, run from `s`, can end. A hold ends in `s.hold`, and TRAP as its routine does. -/
inductive Effect (s : State) : Instr → State → Prop
  | flag {i : Instr} {dr : Reg} (hi : i.setsFlags = true) (hd : i.destination = some dr) (v : Word) :
      Effect s i (s.setRegFlag dr v)
  | br {n z p : Bool} {off : Word} (target : Word) : Effect s (.br n z p off) (s.setPc target)
  | jmp {base : Reg} : Effect s (.jmp base) (s.setPc (s.reg base))
  | ret : Effect s .ret (s.setPc (s.reg .r7))
  | jsr {off : Word} : Effect s (.jsr off) (s.link.setPc (s.pc + off))
  | jsrr {base : Reg} : Effect s (.jsrr base) (s.link.setPc (s.link.reg base))
  | ld {dr : Reg} {off v : Word} {u : State} (hr : s.memRead (s.pcRel off) = some (v, u)) :
      Effect s (.ld dr off) (u.setRegFlag dr v)
  | ldr {dr base : Reg} {off v : Word} {u : State} (hr : s.memRead (s.baseOff base off) = some (v, u)) :
      Effect s (.ldr dr base off) (u.setRegFlag dr v)
  | ldi {dr : Reg} {off ea v : Word} {u w : State} (hp : s.memRead (s.pcRel off) = some (ea, u))
      (hr : u.memRead ea = some (v, w)) : Effect s (.ldi dr off) (w.setRegFlag dr v)
  | st {sr : Reg} {off : Word} : Effect s (.st sr off) (s.storeTo sr (s.pcRel off))
  | str {sr base : Reg} {off : Word} : Effect s (.str sr base off) (s.storeTo sr (s.baseOff base off))
  | sti {sr : Reg} {off ea : Word} {u : State} (hp : s.memRead (s.pcRel off) = some (ea, u)) :
      Effect s (.sti sr off) (u.storeTo sr ea)
  | hold {i : Instr} : Effect s i s.hold
  | reserved1000 {ir : Word} : Effect s (.reserved1000 ir) (s.raiseFault (.reservedOpcode ir))
  | reserved1101 {ir : Word} : Effect s (.reserved1101 ir) (s.raiseFault (.reservedOpcode ir))
  | routine {i : Instr} {r : TrapRoutine} {t : State} (hi : i.core = .trap r.vect) (hr : RoutineEnds s r t) :
      Effect s i t
  | unknown {v : Byte} (hv : v.toNat < 0x20 ∨ 0x25 < v.toNat) :
      Effect s (.trap v) (s.trapEnd s.out (.faulted (.unknownTrap v)))

section
variable {s t : State} {i : Instr}

theorem effect_of_routine {r : TrapRoutine} (hi : i.core = .trap r.vect)
    (h : exec (.trap r.vect) s = .next t) : Effect s i t := by
  obtain ⟨u, hu, hr⟩ := exec_routine_ends r s
  obtain rfl := Host.Outcome.next.inj (hu.symm.trans h)
  exact .routine hi hr

theorem exec_effect (h : exec i s = .next t) : Effect s i t := by
  cases i with
  | addReg | addImm | andReg | andImm | not | lea =>
    obtain rfl := Host.Outcome.next.inj h
    exact .flag rfl rfl _
  | br n z p off =>
    obtain rfl := Host.Outcome.next.inj ((exec_br n z p off s).symm.trans h)
    exact .br _
  | jmp => obtain rfl := Host.Outcome.next.inj h; exact .jmp
  | ret => obtain rfl := Host.Outcome.next.inj h; exact .ret
  | jsr => obtain rfl := Host.Outcome.next.inj h; exact .jsr
  | jsrr => obtain rfl := Host.Outcome.next.inj h; exact .jsrr
  | ld =>
    obtain hs | ⟨-, rfl⟩ := State.finish_next h
    · obtain ⟨v, u, hr, rfl⟩ := State.loadFrom_some hs
      exact .ld hr
    · exact .hold
  | ldr =>
    obtain hs | ⟨-, rfl⟩ := State.finish_next h
    · obtain ⟨v, u, hr, rfl⟩ := State.loadFrom_some hs
      exact .ldr hr
    · exact .hold
  | ldi =>
    obtain hs | ⟨-, rfl⟩ := State.finish_next h
    · obtain ⟨ea, v, u, w, hp, hr, rfl⟩ := State.loadIndirect_some hs
      exact .ldi hp hr
    · exact .hold
  | st => obtain rfl := Host.Outcome.next.inj h; exact .st
  | str => obtain rfl := Host.Outcome.next.inj h; exact .str
  | sti =>
    obtain hs | ⟨-, rfl⟩ := State.finish_next h
    · obtain ⟨ea, u, hp, rfl⟩ := State.storeIndirect_some hs
      exact .sti hp
    · exact .hold
  | reserved1000 => obtain rfl := Host.Outcome.next.inj h; exact .reserved1000
  | reserved1101 => obtain rfl := Host.Outcome.next.inj h; exact .reserved1101
  | trap v =>
    obtain ⟨r, rfl⟩ | hv := vector_cases v
    · exact effect_of_routine rfl h
    · obtain rfl := Host.Outcome.next.inj ((exec_trap_unknown hv s).symm.trans h)
      exact .unknown hv
  | getc => exact effect_of_routine (r := .getc) rfl h
  | out => exact effect_of_routine (r := .out) rfl h
  | puts => exact effect_of_routine (r := .puts) rfl h
  | inp => exact effect_of_routine (r := .inp) rfl h
  | putsp => exact effect_of_routine (r := .putsp) rfl h
  | halt => exact effect_of_routine (r := .halt) rfl h

/-! ### What a trap routine keeps (R131) -/

theorem RoutineEnds.mem {r : TrapRoutine} (h : RoutineEnds s r t) : t.mem = s.mem := by
  cases h <;> rfl

theorem RoutineEnds.params {r : TrapRoutine} (h : RoutineEnds s r t) : t.params = s.params := by
  cases h <;> rfl

/-- A string goes out after what stood there. -/
theorem State.putString_out (s : State) (chars : Word → List Byte) :
    ∃ es, (s.putString chars).out = s.out ++ es := by
  obtain ⟨-, h⟩ | ⟨-, h⟩ := s.putString_cases chars
  · exact ⟨_, (congrArg State.out h).trans (List.append_assoc ..)⟩
  · exact ⟨_, congrArg State.out h⟩

theorem State.putString_run (s : State) (chars : Word → List Byte) :
    (s.putString chars).run = s.run ∨ (s.putString chars).run = .faulted (.trapDeviceRead s.params.kbsr) := by
  obtain ⟨-, h⟩ | ⟨-, h⟩ := s.putString_cases chars
  · rw [h]; exact .inl rfl
  · rw [h]; exact .inr rfl

theorem RoutineEnds.out_append {r : TrapRoutine} (h : RoutineEnds s r t) : ∃ es, t.out = s.out ++ es := by
  cases h with
  | getc | getcHold => exact ⟨[], (List.append_nil _).symm⟩
  | out => exact ⟨_, rfl⟩
  | puts => exact s.putString_out putsChars
  | putsp => exact s.putString_out putspChars
  | halt => exact ⟨_, List.append_assoc ..⟩
  | inp =>
    rw [State.trapRead_out, State.prompted_out_eq]
    exact ⟨_, List.append_assoc ..⟩
  | inpHold => exact ⟨_, s.prompted_out_eq⟩

theorem RoutineEnds.input_suffix {r : TrapRoutine} (h : RoutineEnds s r t) :
    ∃ read, s.input = read ++ t.input := by
  cases h with
  | getc hi | inp hi => exact ⟨[_], hi⟩
  | getcHold | inpHold | out | puts | putsp | halt => exact ⟨[], rfl⟩

theorem RoutineEnds.cond {r : TrapRoutine} (h : RoutineEnds s r t) : t.cond = s.cond ∨
    s.params.trapSetsCC = true ∧ (r = .getc ∨ r = .inp) ∧ t.cond = condOf (t.reg .r0) := by
  cases hcc : s.params.trapSetsCC with
  | false =>
    left
    cases h with
    | getc | inp => exact s.trapRead_cond_of_not_setsCC _ _ _ _ hcc
    | getcHold | inpHold | out | puts | putsp | halt => rfl
  | true =>
    cases h with
    | getc => exact .inr ⟨rfl, .inl rfl, condOf_unique (s.trapRead_flagOf _ _ _ _ hcc)⟩
    | inp => exact .inr ⟨rfl, .inr rfl, condOf_unique (s.trapRead_flagOf _ _ _ _ hcc)⟩
    | getcHold | inpHold | out | puts | putsp | halt => exact .inl rfl

theorem RoutineEnds.pc {r : TrapRoutine} (h : RoutineEnds s r t) :
    t.pc = s.pc ∨ t.pc = s.pc - 1 ∧ t.regs = s.regs ∧ t.mem = s.mem ∧ t.input = s.input := by
  cases h with
  | getcHold | inpHold => exact .inr ⟨rfl, rfl, rfl, rfl⟩
  | getc | inp | out | puts | putsp | halt => exact .inl rfl

theorem RoutineEnds.run {r : TrapRoutine} (h : RoutineEnds s r t) : t.run = s.run ∨
    (t.run = .halted ∧ r = .halt) ∨
    (t.run = .faulted (.trapDeviceRead s.params.kbsr) ∧ (r = .puts ∨ r = .putsp)) := by
  cases h with
  | getc | getcHold | inp | inpHold | out => exact .inl rfl
  | puts => exact (s.putString_run putsChars).imp_right fun h => .inr ⟨h, .inl rfl⟩
  | putsp => exact (s.putString_run putspChars).imp_right fun h => .inr ⟨h, .inr rfl⟩
  | halt => exact .inr (.inl ⟨rfl, rfl⟩)

/-- A register that TRAP's link changes is R7. -/
theorem linkedReg_changed {q : Reg} (h : LinkedReg s q ≠ s.reg q) :
    q = .r7 ∧ s.params.trapLink = .savePC ∧ LinkedReg s q = s.pc := by
  unfold LinkedReg at h ⊢
  split
  · next hl => exact ⟨hl.1, hl.2, rfl⟩
  · next hl => exact absurd (if_neg hl) h

theorem RoutineEnds.reg_changed {r : TrapRoutine} {q : Reg} (h : RoutineEnds s r t)
    (hq : t.reg q ≠ s.reg q) : (q = .r0 ∧ (r = .getc ∨ r = .inp)) ∨
      (q = .r7 ∧ s.params.trapLink = .savePC ∧ t.reg q = s.pc) := by
  have hlinked (ht : t.reg q = LinkedReg s q) : q = .r7 ∧ s.params.trapLink = .savePC ∧ t.reg q = s.pc := by
    rw [ht] at hq ⊢
    exact linkedReg_changed hq
  cases h with
  | getc =>
    by_cases h0 : q = .r0
    · exact .inl ⟨h0, .inl rfl⟩
    · exact .inr (hlinked (s.trapRead_linkedRegsBut _ _ _ _ q h0))
  | inp =>
    by_cases h0 : q = .r0
    · exact .inl ⟨h0, .inr rfl⟩
    · exact .inr (hlinked (s.trapRead_linkedRegsBut _ _ _ _ q h0))
  | out | puts | putsp | halt => exact .inr (hlinked (s.trapLink_reg q))
  | getcHold | inpHold => exact absurd rfl hq

theorem RoutineEnds.inPrompted {r : TrapRoutine} (h : RoutineEnds s r t) (ht : t.inPrompted = true) :
    s.inPrompted = true ∨ r = .inp := by
  cases h with
  | inp | inpHold => exact .inr rfl
  | getc | getcHold | out | puts | putsp | halt => exact .inl ht

/-! ### What an instruction is, read from its core (R75) -/

theorem Instr.named_core (i : Instr) : i.core.named = i.named := by
  cases i <;> rfl

theorem Instr.isTrap_of_core {v : Byte} (h : i.core = .trap v) : i.isTrap = true := by
  have hcore : i.core.isTrap = i.isTrap := by cases i <;> rfl
  rw [← hcore, h]; rfl

theorem Instr.setsFlags_of_core {v : Byte} (h : i.core = .trap v) : i.setsFlags = false := by
  have hcore : i.core.setsFlags = i.setsFlags := by cases i <;> rfl
  rw [← hcore, h]; rfl

theorem Instr.isTrap_of_setsFlags (h : i.setsFlags = true) : i.isTrap = false := by
  cases i with
  | addReg | addImm | andReg | andImm | not | ld | ldi | ldr | lea => rfl
  | br | jmp | jsr | jsrr | st | sti | str | trap | reserved1000 | reserved1101 | ret | getc | out | puts |
    inp | putsp | halt => cases h

theorem Instr.destination_of_core {r : TrapRoutine} (h : i.core = .trap r.vect) (hr : r = .getc ∨ r = .inp) :
    i.destination = some .r0 := by
  unfold Instr.destination
  rw [h]
  obtain rfl | rfl := hr <;> rfl

/-- The decoder answers an instruction by its name, so its core says which it is. -/
theorem decode_eq_of_core {w : Word} {c : Instr} (h : (decode w).core = c) : decode w = c.named := by
  rw [← h, Instr.named_core, (wellFormed_iff.mp (decode_wellFormed w)).2]

/-! ### What a read leaves (20_memory.md R40) -/

theorem State.memRead_input {a v : Word} (h : s.memRead a = some (v, t)) : ∃ read, s.input = read ++ t.input := by
  obtain ⟨-, -, rfl⟩ | ⟨-, -, hp⟩ := State.memRead_cases h
  · exact ⟨[], rfl⟩
  · obtain ⟨-, rfl⟩ | ⟨-, c, cs, hi, rfl⟩ := State.poll_cases hp
    · exact ⟨[], rfl⟩
    · exact ⟨[c], hi⟩

/-- A read changes cells at `P_KBSR` alone, and of the device cells alone. -/
theorem State.memRead_changed {a v b : Word} (h : s.memRead a = some (v, t)) (hb : t.cell b ≠ s.cell b) :
    a = s.params.kbsr ∧ (b = s.params.kbsr ∨ b = s.params.kbdr) := by
  refine ⟨?_, ?_⟩
  · obtain ⟨-, -, rfl⟩ | ⟨ha, -, -⟩ := State.memRead_cases h
    · exact absurd rfl hb
    · exact ha
  · by_contra hne
    push Not at hne
    exact hb (State.memRead_cell h hne.1 hne.2)

theorem ReadFrame.setRegFlag_changed {u : State} {dr q : Reg} {v : Word} (hf : ReadFrame s u)
    (h : (u.setRegFlag dr v).reg q ≠ s.reg q) : q = dr := by
  by_contra hq
  rw [State.setRegFlag_reg, if_neg hq, hf.reg] at h
  exact h rfl

theorem State.link_changed {q : Reg} (h : s.link.reg q ≠ s.reg q) : q = .r7 := by
  by_contra hq
  exact h (State.link_reg_other hq)

/-! ### The laws of the executions -/

theorem Effect.wf (h : Effect s i t) (hs : Memory.wf s.mem) : Memory.wf t.mem := by
  cases h with
  | flag | br | jmp | ret | jsr | jsrr | hold | reserved1000 | reserved1101 | unknown => exact hs
  | ld hr | ldr hr => exact (State.memRead_wf hs hr :)
  | ldi hp hr => exact (State.memRead_wf (State.memRead_wf hs hp) hr :)
  | st | str => exact State.storeTo_wf hs _ _
  | sti hp => exact State.storeTo_wf (State.memRead_wf hs hp) _ _
  | routine _ hr => exact hr.mem ▸ hs

theorem Effect.params (h : Effect s i t) : t.params = s.params := by
  cases h with
  | flag | br | jmp | ret | jsr | jsrr | st | str | hold | reserved1000 | reserved1101 | unknown => rfl
  | ld hr | ldr hr | sti hr => exact (State.memRead_frame hr).params
  | ldi hp hr => exact ((State.memRead_frame hp).trans (State.memRead_frame hr)).params
  | routine _ hr => exact hr.params

theorem Effect.out_append (h : Effect s i t) : ∃ es, t.out = s.out ++ es := by
  cases h with
  | flag | br | jmp | ret | jsr | jsrr | st | str | hold | reserved1000 | reserved1101 | unknown =>
    exact ⟨[], (List.append_nil _).symm⟩
  | ld hr | ldr hr | sti hr => exact ⟨[], (State.memRead_frame hr).out.trans (List.append_nil _).symm⟩
  | ldi hp hr =>
    exact ⟨[], ((State.memRead_frame hp).trans (State.memRead_frame hr)).out.trans (List.append_nil _).symm⟩
  | routine _ hr => exact hr.out_append

/-- Only TRAP writes the console. -/
theorem Effect.out_of_not_isTrap (h : Effect s i t) (hi : i.isTrap = false) : t.out = s.out := by
  cases h with
  | flag | br | jmp | ret | jsr | jsrr | st | str | hold | reserved1000 | reserved1101 | unknown => rfl
  | ld hr | ldr hr | sti hr => exact (State.memRead_frame hr).out
  | ldi hp hr => exact ((State.memRead_frame hp).trans (State.memRead_frame hr)).out
  | routine hcore _ => rw [Instr.isTrap_of_core hcore] at hi; cases hi

theorem Effect.input_suffix (h : Effect s i t) : ∃ read, s.input = read ++ t.input := by
  cases h with
  | flag | br | jmp | ret | jsr | jsrr | st | str | hold | reserved1000 | reserved1101 | unknown =>
    exact ⟨[], rfl⟩
  | ld hr | ldr hr | sti hr => exact (State.memRead_input hr :)
  | ldi hp hr =>
    obtain ⟨xs, hxs⟩ := State.memRead_input hp
    obtain ⟨ys, hys⟩ := State.memRead_input hr
    exact ⟨xs ++ ys, by rw [List.append_assoc]; exact hys ▸ hxs⟩
  | routine _ hr => exact hr.input_suffix

/-- A flag-setting instruction that ends leaves the flag of its destination. -/
theorem Effect.flagOf_destination (h : Effect s i t) (hi : i.setsFlags = true) :
    t = s.hold ∨ ∃ dr, i.destination = some dr ∧ FlagOf (t.reg dr) t.cond := by
  cases h with
  | flag _ hd v => exact .inr ⟨_, hd, s.setRegFlag_flagOf _ v⟩
  | ld | ldr | ldi => exact .inr ⟨_, rfl, State.setRegFlag_flagOf ..⟩
  | hold => exact .inl rfl
  | br | jmp | ret | jsr | jsrr | st | str | sti | reserved1000 | reserved1101 | unknown => cases hi
  | routine hcore _ => rw [Instr.setsFlags_of_core hcore] at hi; cases hi

theorem Effect.cond_of_not_setsFlags (h : Effect s i t) (hi : i.setsFlags = false) : t.cond = s.cond ∨
    s.params.trapSetsCC = true ∧ i.isTrap = true ∧ i.destination = some .r0 ∧
      FlagOf (t.reg .r0) t.cond := by
  cases h with
  | flag hf => rw [hf] at hi; cases hi
  | ld | ldr | ldi => cases hi
  | br | jmp | ret | jsr | jsrr | st | str | hold | reserved1000 | reserved1101 | unknown => exact .inl rfl
  | sti hp => exact .inl (State.memRead_frame hp).cond
  | routine hcore hr =>
    refine hr.cond.imp_right fun ⟨hcc, hread, hcond⟩ => ⟨hcc, Instr.isTrap_of_core hcore,
      Instr.destination_of_core hcore hread, ?_⟩
    rw [hcond]
    exact condOf_flagOf _

theorem Effect.cond_ne_none (h : Effect s i t) (hs : s.cond ≠ .none) : t.cond ≠ .none := by
  cases hi : i.setsFlags with
  | true =>
    obtain rfl | ⟨dr, -, hflag⟩ := h.flagOf_destination hi
    · exact hs
    · exact condOf_unique hflag ▸ condOf_ne_none _
  | false =>
    obtain hcond | ⟨-, -, -, hflag⟩ := h.cond_of_not_setsFlags hi
    · exact hcond ▸ hs
    · exact condOf_unique hflag ▸ condOf_ne_none _

theorem Effect.reg_changed {q : Reg} (h : Effect s i t) (hq : t.reg q ≠ s.reg q) : i.destination = some q ∨
    (q = .r7 ∧ i.isTrap = true ∧ s.params.trapLink = .savePC ∧ t.reg q = s.pc) := by
  cases h with
  | flag _ hd => exact .inl ((ReadFrame.refl s).setRegFlag_changed hq ▸ hd)
  | ld hr | ldr hr => exact .inl ((State.memRead_frame hr).setRegFlag_changed hq ▸ rfl)
  | ldi hp hr =>
    exact .inl (((State.memRead_frame hp).trans (State.memRead_frame hr)).setRegFlag_changed hq ▸ rfl)
  | jsr | jsrr => exact .inl (State.link_changed hq ▸ rfl)
  | br | jmp | ret | st | str | hold | reserved1000 | reserved1101 => exact absurd rfl hq
  | sti hp => exact absurd ((State.memRead_frame hp).reg q) hq
  | routine hcore hr =>
    obtain ⟨rfl, hread⟩ | ⟨h7, hlink, hval⟩ := hr.reg_changed hq
    · exact .inl (Instr.destination_of_core hcore hread)
    · exact .inr ⟨h7, Instr.isTrap_of_core hcore, hlink, hval⟩
  | unknown =>
    have hreg := s.trapLink_reg q
    obtain ⟨h7, hlink, hval⟩ := linkedReg_changed fun h => hq (hreg.trans h)
    exact .inr ⟨h7, rfl, hlink, hreg.trans hval⟩

/-- The instructions whose own effect writes PC are BR, JMP, RET, JSR and JSRR. -/
theorem Effect.pc (h : Effect s i t) (hbr : ∀ n z p off, i ≠ .br n z p off) (hjmp : ∀ base, i ≠ .jmp base)
    (hret : i ≠ .ret) (hjsr : ∀ off, i ≠ .jsr off) (hjsrr : ∀ base, i ≠ .jsrr base) :
    t.pc = s.pc ∨ t.pc = s.pc - 1 ∧ t.regs = s.regs ∧ t.mem = s.mem ∧ t.input = s.input := by
  cases h with
  | br => exact absurd rfl (hbr _ _ _ _)
  | jmp => exact absurd rfl (hjmp _)
  | ret => exact absurd rfl hret
  | jsr => exact absurd rfl (hjsr _)
  | jsrr => exact absurd rfl (hjsrr _)
  | flag | st | str | reserved1000 | reserved1101 | unknown => exact .inl rfl
  | ld hr | ldr hr | sti hr => exact .inl (State.memRead_frame hr).pc
  | ldi hp hr => exact .inl ((State.memRead_frame hp).trans (State.memRead_frame hr)).pc
  | hold => exact .inr ⟨rfl, rfl, rfl, rfl⟩
  | routine _ hr => exact hr.pc

/-- A routine writes no cell, and of R1 to R6 no register. -/
theorem Effect.of_isTrap (h : Effect s i t) (hi : i.isTrap = true) :
    t.mem = s.mem ∧ ∀ r : Reg, r ≠ .r0 → r ≠ .r7 → t.reg r = s.reg r := by
  cases h with
  | flag hf => rw [Instr.isTrap_of_setsFlags hf] at hi; cases hi
  | br | jmp | ret | jsr | jsrr | ld | ldr | ldi | st | str | sti | reserved1000 | reserved1101 => cases hi
  | hold => exact ⟨rfl, fun _ _ _ => rfl⟩
  | routine _ hr =>
    refine ⟨hr.mem, fun r h0 h7 => by_contra fun hq => ?_⟩
    obtain ⟨h, -⟩ | ⟨h, -⟩ := hr.reg_changed hq
    · exact h0 h
    · exact h7 h
  | unknown => exact ⟨rfl, fun r _ h7 => s.trapLink_reg_other r h7⟩

/-- A cell changes by a store at its address, or, if it is a device cell, by a read at `P_KBSR`. -/
theorem Effect.cell_changed {a : Word} (h : Effect s i t) (ha : t.cell a ≠ s.cell a) :
    (∃ sr off, i = .st sr off ∧ a = s.pcRel off) ∨
    (∃ sr base off, i = .str sr base off ∧ a = s.baseOff base off) ∨
    (∃ sr off ea u, i = .sti sr off ∧ s.memRead (s.pcRel off) = some (ea, u) ∧ a = ea) ∨
    ((a = s.params.kbsr ∨ a = s.params.kbdr) ∧
      ((∃ dr off, i = .ld dr off ∧ s.pcRel off = s.params.kbsr) ∨
       (∃ dr base off, i = .ldr dr base off ∧ s.baseOff base off = s.params.kbsr) ∨
       (∃ dr off, i = .ldi dr off ∧ (s.pcRel off = s.params.kbsr ∨
         ∃ u, s.memRead (s.pcRel off) = some (s.params.kbsr, u))) ∨
       (∃ sr off, i = .sti sr off ∧ s.pcRel off = s.params.kbsr))) := by
  cases h with
  | flag | br | jmp | ret | jsr | jsrr | hold | reserved1000 | reserved1101 | unknown => exact absurd rfl ha
  | routine _ hr => exact absurd (congrArg (Memory.read · a.toNat) hr.mem) ha
  | st => exact .inl ⟨_, _, rfl, by_contra fun hne => ha (s.storeTo_sameMemoryBut _ _ a hne)⟩
  | str => exact .inr (.inl ⟨_, _, _, rfl, by_contra fun hne => ha (s.storeTo_sameMemoryBut _ _ a hne)⟩)
  | @sti _ _ ea _ hp =>
    by_cases hea : a = ea
    · exact .inr (.inr (.inl ⟨_, _, _, _, rfl, hp, hea⟩))
    · rw [State.storeTo_sameMemoryBut _ _ _ a hea] at ha
      obtain ⟨haddr, hdev⟩ := State.memRead_changed hp ha
      exact .inr (.inr (.inr ⟨hdev, .inr (.inr (.inr ⟨_, _, rfl, haddr⟩))⟩))
  | ld hr =>
    obtain ⟨haddr, hdev⟩ := State.memRead_changed hr ha
    exact .inr (.inr (.inr ⟨hdev, .inl ⟨_, _, rfl, haddr⟩⟩))
  | ldr hr =>
    obtain ⟨haddr, hdev⟩ := State.memRead_changed hr ha
    exact .inr (.inr (.inr ⟨hdev, .inr (.inl ⟨_, _, _, rfl, haddr⟩)⟩))
  | @ldi _ _ ea _ u _ hp hr =>
    by_cases hu : u.cell a = s.cell a
    · obtain ⟨haddr, hdev⟩ := State.memRead_changed hr (hu ▸ ha)
      rw [(State.memRead_frame hp).params] at haddr hdev
      exact .inr (.inr (.inr ⟨hdev, .inr (.inr (.inl ⟨_, _, rfl, .inr ⟨u, haddr ▸ hp⟩⟩))⟩))
    · obtain ⟨haddr, hdev⟩ := State.memRead_changed hp hu
      exact .inr (.inr (.inr ⟨hdev, .inr (.inr (.inl ⟨_, _, rfl, .inl haddr⟩))⟩))

theorem Effect.run (h : Effect s i t) : t.run = s.run ∨
    (t.run = .halted ∧ i.core = .trap 0x25) ∨
    (∃ ir, t.run = .faulted (.reservedOpcode ir) ∧ (i = .reserved1000 ir ∨ i = .reserved1101 ir)) ∨
    (∃ v, t.run = .faulted (.unknownTrap v) ∧ i = .trap v ∧ (v.toNat < 0x20 ∨ 0x25 < v.toNat)) ∨
    (t.run = .faulted (.trapDeviceRead s.params.kbsr) ∧ (i.core = .trap 0x22 ∨ i.core = .trap 0x24)) := by
  cases h with
  | flag | br | jmp | ret | jsr | jsrr | st | str | hold => exact .inl rfl
  | ld hr | ldr hr | sti hr => exact .inl (State.memRead_frame hr).run
  | ldi hp hr => exact .inl ((State.memRead_frame hp).trans (State.memRead_frame hr)).run
  | reserved1000 => exact .inr (.inr (.inl ⟨_, rfl, .inl rfl⟩))
  | reserved1101 => exact .inr (.inr (.inl ⟨_, rfl, .inr rfl⟩))
  | unknown hv => exact .inr (.inr (.inr (.inl ⟨_, rfl, rfl, hv⟩)))
  | routine hcore hr =>
    obtain hrun | ⟨hrun, rfl⟩ | ⟨hrun, hstring⟩ := hr.run
    · exact .inl hrun
    · exact .inr (.inl ⟨hrun, hcore⟩)
    · refine .inr (.inr (.inr (.inr ⟨hrun, ?_⟩)))
      obtain rfl | rfl := hstring
      · exact .inl hcore
      · exact .inr hcore

/-- Only IN leaves a prompt to wait. -/
theorem Effect.inPrompted (h : Effect s i t) (ht : t.inPrompted = true) :
    s.inPrompted = true ∨ i.core = .trap 0x23 := by
  cases h with
  | flag | br | jmp | ret | jsr | jsrr | st | str | hold | reserved1000 | reserved1101 | unknown => exact .inl ht
  | ld hr | ldr hr | sti hr => exact .inl ((State.memRead_frame hr).inPrompted ▸ ht)
  | ldi hp hr => exact .inl (((State.memRead_frame hp).trans (State.memRead_frame hr)).inPrompted ▸ ht)
  | routine hcore hr =>
    obtain hs | rfl := hr.inPrompted ht
    · exact .inl hs
    · exact .inr hcore

end

/-! ### The obligations on executions -/

/-- Settles O48: of the forms of `Effect`, only those of TRAP apply (`Effect.of_isTrap`). -/
theorem noTrapRoutineWritesMemory : Obligations.NoTrapRoutineWritesMemory :=
  fun _ _ _ hi h => (exec_effect h).of_isTrap hi

/-- Settles O51: COND in each form of `Effect`, for the flag-setting instructions and for the others. -/
theorem onlyFlagSettersWriteCond : Obligations.OnlyFlagSettersWriteCond :=
  fun _ _ _ h => ⟨(exec_effect h).flagOf_destination, (exec_effect h).cond_of_not_setsFlags⟩

/-- Settles O53: the register that each form of `Effect` writes (`Effect.reg_changed`). -/
theorem registersAreWrittenOnlyAsListed : Obligations.RegistersAreWrittenOnlyAsListed :=
  fun _ _ _ _ h hq => (exec_effect h).reg_changed hq

/-- Settles O54: PC in the forms of `Effect` that are left (`Effect.pc`). -/
theorem pcIsWrittenOnlyByControlTransfer : Obligations.PcIsWrittenOnlyByControlTransfer :=
  fun _ _ _ h => (exec_effect h).pc

/-- Settles O55: the cells that each form of `Effect` writes (`Effect.cell_changed`). -/
theorem memoryChangesOnlyByStoresAndPolls : Obligations.MemoryChangesOnlyByStoresAndPolls :=
  fun _ _ _ _ h ha => (exec_effect h).cell_changed ha

/-- Settles O56: only a routine's end writes the output (`Effect.out_of_not_isTrap`). -/
theorem onlyTrapsWriteTheConsole : Obligations.OnlyTrapsWriteTheConsole :=
  fun _ _ _ hi h => (exec_effect h).out_of_not_isTrap hi

end Sys2Proof.Machine

/-! ## The Word Store and the read path (20_memory.md)

Two canonical stores that read alike list the same cells, by induction on both lists. A read of `P_KBSR` is one
poll, whose status word is the Word read. -/

namespace Sys2Proof.Machine

/-! ### The canonical form is unique (notes/assumptions/5.md) -/

theorem Memory.read_cons_same {k : Nat} {v : Word} (m : Memory) : Memory.read ((k, v) :: m) k = v := by
  simp [Memory.read]

theorem Memory.read_cons_other {k a : Nat} {v : Word} (m : Memory) (h : k ≠ a) :
    Memory.read ((k, v) :: m) a = Memory.read m a := by
  simp [Memory.read, h]

/-- A store that lists a cell below all of another's reads otherwise there. -/
theorem Memory.read_ne_of_lt {k : Nat} {v : Word} {m m' : Memory} (h : Memory.wf ((k, v) :: m))
    (hlt : ∀ c ∈ m', k < c.1) : Memory.read ((k, v) :: m) k ≠ Memory.read m' k := by
  obtain ⟨-, hv, -, -⟩ := Memory.wf_cons.mp h
  rw [Memory.read_cons_same, Memory.read_of_lt hlt]
  exact hv

/-- The first address of a canonical store is below the rest. -/
theorem Memory.lt_of_lt_head {k k' : Nat} {v' : Word} {m' : Memory} (h : Memory.wf ((k', v') :: m'))
    (hk : k < k') : ∀ c ∈ (k', v') :: m', k < c.1 := by
  obtain ⟨-, -, hlt, -⟩ := Memory.wf_cons.mp h
  intro c hc
  rcases List.mem_cons.mp hc with rfl | hc
  · exact hk
  · exact hk.trans (hlt c hc)

theorem Memory.eq_of_read_eq {m m' : Memory} (hm : Memory.wf m) (hm' : Memory.wf m')
    (h : ∀ a, a < 65536 → Memory.read m a = Memory.read m' a) : m = m' := by
  induction m generalizing m' with
  | nil =>
    cases m' with
    | nil => rfl
    | cons c m' =>
      obtain ⟨hk, -, -, -⟩ := Memory.wf_cons.mp hm'
      exact absurd (h _ hk).symm (Memory.read_ne_of_lt hm' (by simp))
  | cons c m ih =>
    obtain ⟨k, v⟩ := c
    obtain ⟨hk, -, hlt, hwf⟩ := Memory.wf_cons.mp hm
    cases m' with
    | nil => exact absurd (h k hk) (Memory.read_ne_of_lt hm (by simp))
    | cons c' m' =>
      obtain ⟨k', v'⟩ := c'
      obtain ⟨hk', -, hlt', hwf'⟩ := Memory.wf_cons.mp hm'
      obtain hkk | rfl | hkk := lt_trichotomy k k'
      · exact absurd (h k hk) (Memory.read_ne_of_lt hm (Memory.lt_of_lt_head hm' hkk))
      · have hv : v = v' := by simpa only [Memory.read_cons_same] using h k hk
        subst hv
        congr 1
        refine ih hwf hwf' fun a ha => ?_
        by_cases hka : k = a
        · subst hka
          rw [Memory.read_of_lt hlt, Memory.read_of_lt hlt']
        · simpa only [Memory.read_cons_other _ hka] using h a ha
      · exact absurd (h k' hk').symm (Memory.read_ne_of_lt hm' (Memory.lt_of_lt_head hm hkk))

/-! ### The loader (70_reset_and_hazards.md R183) -/

/-- The cells from `b` on hold the Words, as many as fit; the others read as before. -/
theorem loadWords_read {m : Memory} (hm : Memory.wf m) (b : Nat) (ws : List Word) {a : Nat} (ha : a < 65536) :
    Memory.read (loadWords m b ws) a =
      if b ≤ a then (ws[a - b]?).getD (Memory.read m a) else Memory.read m a := by
  induction ws generalizing m b with
  | nil => simp [loadWords]
  | cons w ws ih =>
    rw [loadWords]
    by_cases hb : b > 0xFFFF
    · rw [if_pos hb, if_neg (by omega)]
    · rw [if_neg hb, ih (Memory.write_wf hm (by omega) w)]
      obtain hlt | rfl | hgt := lt_trichotomy b a
      · have hsub : a - b = a - (b + 1) + 1 := by omega
        rw [if_pos (Nat.succ_le_of_lt hlt), if_pos hlt.le, Memory.read_write_other w hlt.ne', hsub,
          List.getElem?_cons_succ]
      · rw [if_neg (by omega), if_pos le_rfl, Memory.read_write_same hm, Nat.sub_self]
        rfl
      · rw [if_neg (by omega), if_neg (by omega), Memory.read_write_other w hgt.ne]

/-! ### Startup (R184, R185) -/

theorem boot_failed (p : Params) {files : List (Option (List Byte))} (h : loadFiles [] files = none) :
    boot p files = .failed .badImage := by
  cases files with
  | nil => cases h
  | cons f fs => simp only [boot, h]

theorem boot_started (p : Params) {files : List (Option (List Byte))} {m : Memory} (hne : files ≠ [])
    (h : loadFiles [] files = some m) : boot p files = .started { State.resetWith p with mem := m } := by
  cases files with
  | nil => exact absurd rfl hne
  | cons f fs => simp only [boot, h]

/-- A started block is in the reset state but for its memory (R183). -/
theorem boot_started_eq {p : Params} {files : List (Option (List Byte))} {s : State}
    (h : boot p files = .started s) : s = { State.resetWith p with mem := s.mem } := by
  cases hm : loadFiles [] files with
  | none => rw [boot_failed p hm] at h; cases h
  | some m =>
    cases files with
    | nil => cases h
    | cons f fs =>
      rw [boot_started p (List.cons_ne_nil f fs) hm] at h
      obtain rfl := Startup.started.inj h
      rfl

/-! ### A read of the keyboard status (R40) -/

/-- The state after a poll that finds no key. -/
def State.polledNoKey (s : State) : State := s.drawn.memWrite s.params.kbsr 0x0000

/-- The state after a poll that finds the key `c` and leaves the input `cs`. -/
def State.polledKey (s : State) (c : Byte) (cs : List Byte) : State :=
  ((s.drawn.withInput cs).memWrite s.params.kbsr 0x8000).memWrite s.params.kbdr (zext c)

@[simp] theorem State.polledNoKey_input (s : State) : s.polledNoKey.input = s.input := rfl

theorem State.polledNoKey_frame (s : State) : ReadFrame s s.polledNoKey :=
  ⟨rfl, rfl, rfl, rfl, rfl, rfl, ⟨rfl, rfl⟩, rfl⟩

theorem State.polledNoKey_drawMade (s : State) : DrawMade s s.polledNoKey := s.drawn_drawMade

@[simp] theorem State.polledKey_input (s : State) (c : Byte) (cs : List Byte) : (s.polledKey c cs).input = cs := rfl

theorem State.polledKey_frame (s : State) (c : Byte) (cs : List Byte) : ReadFrame s (s.polledKey c cs) :=
  ⟨rfl, rfl, rfl, rfl, rfl, rfl, ⟨rfl, rfl⟩, rfl⟩

theorem State.polledKey_drawMade (s : State) (c : Byte) (cs : List Byte) : DrawMade s (s.polledKey c cs) :=
  s.drawn_drawMade

section
variable {s : State} (hm : Memory.wf s.mem)

include hm in
theorem State.polledNoKey_status : s.polledNoKey.cell s.params.kbsr = 0x0000 :=
  (State.memWrite_cell (s := s.drawn) hm _ _ _).trans (if_pos rfl)

theorem State.polledNoKey_sameMemoryBut : SameMemoryBut s.params.kbsr s s.polledNoKey :=
  fun _ ha => s.drawn.memWrite_cell_other _ ha

include hm in
theorem State.polledKey_status (hd : s.params.kbsr ≠ s.params.kbdr) (c : Byte) (cs : List Byte) :
    (s.polledKey c cs).cell s.params.kbsr = 0x8000 :=
  (State.memWrite_cell_other _ _ hd).trans
    ((State.memWrite_cell (s := s.drawn.withInput cs) hm _ _ _).trans (if_pos rfl))

include hm in
theorem State.polledKey_data (c : Byte) (cs : List Byte) : (s.polledKey c cs).cell s.params.kbdr = zext c :=
  (State.memWrite_cell (State.memWrite_wf (s := s.drawn.withInput cs) hm _ _) _ _ _).trans (if_pos rfl)

theorem State.polledKey_other (c : Byte) (cs : List Byte) {a : Word} (h : a ≠ s.params.kbsr)
    (h' : a ≠ s.params.kbdr) : (s.polledKey c cs).cell a = s.cell a :=
  (State.memWrite_cell_other _ _ h').trans (State.memWrite_cell_other (s.drawn.withInput cs) _ h)

include hm in
theorem State.memRead_noKey (hk : s.keyAnswer = false) :
    s.memRead s.params.kbsr = some (0x0000, s.polledNoKey) := by
  rw [State.memRead_status, State.poll_no_key hk, Option.map_some]
  exact congrArg (fun v => some (v, s.polledNoKey)) (State.polledNoKey_status hm)

include hm in
theorem State.memRead_key (hd : s.params.kbsr ≠ s.params.kbdr) (hk : s.keyAnswer = true) {c : Byte}
    {cs : List Byte} (hi : s.input = c :: cs) :
    s.memRead s.params.kbsr = some (0x8000, s.polledKey c cs) := by
  rw [State.memRead_status, State.poll_key hk hi, Option.map_some]
  exact congrArg (fun v => some (v, s.polledKey c cs)) (State.polledKey_status hm hd c cs)

end

/-! ### Loads and STI (42_load_store.md)

Each ends in one `setRegFlag` or `storeTo`, in the state its last read left, or holds. -/

section
variable {s u : State} {v : Word}

/-- A load's end: the Word in DR and its flag in COND; the rest is as the reads left it. -/
theorem ReadFrame.setRegFlag_frame (hf : ReadFrame s u) (dr : Reg) (v : Word) :
    (u.setRegFlag dr v).reg dr = v ∧ FlagOf v (u.setRegFlag dr v).cond ∧ SameRegsBut dr s (u.setRegFlag dr v) ∧
      (u.setRegFlag dr v).pc = s.pc ∧ SameMemory u (u.setRegFlag dr v) ∧ SameOutside u (u.setRegFlag dr v) := by
  refine ⟨u.setRegFlag_reg_same dr v, ?_, fun r hr => ?_, hf.pc, u.setRegFlag_sameMemory dr v,
    u.setRegFlag_sameOutside dr v⟩
  · rw [State.setRegFlag_cond]
    exact condOf_flagOf v
  · rw [u.setRegFlag_sameRegsBut dr v r hr, hf.reg]

theorem exec_ld_read {off : Word} (h : s.memRead (s.pc + off) = some (v, u)) (dr : Reg) :
    exec (.ld dr off) s = .next (u.setRegFlag dr v) := by
  simp only [exec, execLd, State.loadFrom, State.pcRel, h, State.finish]

theorem exec_ld_hold {off : Word} (h : s.memRead (s.pc + off) = none) (dr : Reg) :
    exec (.ld dr off) s = .next s.hold := by
  simp only [exec, execLd, State.loadFrom, State.pcRel, h, State.finish]

theorem exec_ldr_read {base : Reg} {off : Word} (h : s.memRead (s.reg base + off) = some (v, u)) (dr : Reg) :
    exec (.ldr dr base off) s = .next (u.setRegFlag dr v) := by
  simp only [exec, execLdr, State.loadFrom, State.baseOff, h, State.finish]

theorem exec_ldr_hold {base : Reg} {off : Word} (h : s.memRead (s.reg base + off) = none) (dr : Reg) :
    exec (.ldr dr base off) s = .next s.hold := by
  simp only [exec, execLdr, State.loadFrom, State.baseOff, h, State.finish]

theorem exec_ldi_read {off ea : Word} {w : State} (hp : s.memRead (s.pc + off) = some (ea, u))
    (h : u.memRead ea = some (v, w)) (dr : Reg) : exec (.ldi dr off) s = .next (w.setRegFlag dr v) := by
  simp only [exec, execLdi, State.loadIndirect, State.loadFrom, State.pcRel, hp, h, State.finish]

theorem exec_ldi_hold_pointer {off : Word} (h : s.memRead (s.pc + off) = none) (dr : Reg) :
    exec (.ldi dr off) s = .next s.hold := by
  simp only [exec, execLdi, State.loadIndirect, State.pcRel, h, State.finish]

theorem exec_ldi_hold_data {off ea : Word} (hp : s.memRead (s.pc + off) = some (ea, u))
    (h : u.memRead ea = none) (dr : Reg) : exec (.ldi dr off) s = .next s.hold := by
  simp only [exec, execLdi, State.loadIndirect, State.loadFrom, State.pcRel, hp, h, State.finish]

theorem exec_sti_read {off ea : Word} (h : s.memRead (s.pcRel off) = some (ea, u)) (sr : Reg) :
    exec (.sti sr off) s = .next (u.storeTo sr ea) := by
  simp only [exec, execSti, State.storeIndirect, h, State.finish]

theorem exec_sti_hold {off : Word} (h : s.memRead (s.pcRel off) = none) (sr : Reg) :
    exec (.sti sr off) s = .next s.hold := by
  simp only [exec, execSti, State.storeIndirect, h, State.finish]

end

/-! ### The obligations -/

/-- Settles O30: by induction on both lists, whose heads agree where the lists read alike. -/
theorem equalReadsMeanEqualMemory : Obligations.EqualReadsMeanEqualMemory :=
  fun _ _ hm hm' h => Memory.eq_of_read_eq hm hm' h

/-- Settles O29: `memWrite` read back, and its other fields are those of `s`. -/
theorem aWriteIsPlainStorageEverywhere : Obligations.AWriteIsPlainStorageEverywhere :=
  fun s a v hm => ⟨(State.memWrite_cell hm a v a).trans (if_pos rfl), fun _ hb => s.memWrite_cell_other v hb, rfl⟩

/-- Settles O58: `loadWords_read` from the image's origin. -/
theorem loadingAnImageWritesItsWords : Obligations.LoadingAnImageWritesItsWords :=
  fun _ image _ hm ha => loadWords_read hm image.origin.toNat image.words ha

/-- Settles O28: the read at `P_KBSR` is the poll, in its three outcomes. -/
theorem theReadPathPollsAtKeyboardStatus : Obligations.TheReadPathPollsAtKeyboardStatus := by
  refine fun s a hm hd => ⟨State.memRead_plain, ?noKey, ?key, fun ha hk hi => State.memRead_eq_none.mpr ⟨ha, hk, hi⟩,
    fun b bs => State.keyAnswer_cons, State.keyAnswer_nil⟩
  case noKey =>
    rintro rfl hk
    exact ⟨_, State.memRead_noKey hm hk, State.polledNoKey_status hm, State.polledNoKey_sameMemoryBut,
      s.polledNoKey_input, s.polledNoKey_drawMade, s.polledNoKey_frame⟩
  case key =>
    rintro rfl hk c cs hi
    exact ⟨_, State.memRead_key hm hd hk hi, State.polledKey_status hm hd c cs, State.polledKey_data hm c cs,
      fun b h h' => State.polledKey_other c cs h h', s.polledKey_input c cs, s.polledKey_drawMade c cs,
      s.polledKey_frame c cs⟩

/-- Settles O33: `setRegFlag` in the state the read left, or a hold. -/
theorem loadsGoThroughTheReadPath : Obligations.LoadsGoThroughTheReadPath :=
  fun dr _ _ v _ _ =>
    ⟨fun h => ⟨_, exec_ld_read h dr, (State.memRead_frame h).setRegFlag_frame dr v⟩, (exec_ld_hold · dr),
      fun h => ⟨_, exec_ldr_read h dr, (State.memRead_frame h).setRegFlag_frame dr v⟩, (exec_ldr_hold · dr)⟩

/-- Settles O34: `setRegFlag` in the state the second read left, or a hold by either read. -/
theorem ldiIsTwoChainedReads : Obligations.LdiIsTwoChainedReads :=
  fun dr _ _ v _ _ _ =>
    ⟨fun hp h => ⟨_, exec_ldi_read hp h dr,
        ((State.memRead_frame hp).trans (State.memRead_frame h)).setRegFlag_frame dr v⟩,
      (exec_ldi_hold_pointer · dr), (exec_ldi_hold_data · · dr)⟩

/-- Settles O32: away from `P_KBSR` a read is plain and leaves the state as it was. -/
theorem loadsOfOrdinaryCellsComplete : Obligations.LoadsOfOrdinaryCellsComplete := by
  refine ⟨fun dr off s h => ?ld, fun dr base off s h => ?ldr, fun dr off s h h' => ?ldi⟩
  case ld => exact ⟨_, exec_ld_read (State.memRead_plain h) dr, s.setRegFlag_reg_same dr _, s.setRegFlag_frame dr _⟩
  case ldr =>
    exact ⟨_, exec_ldr_read (State.memRead_plain h) dr, s.setRegFlag_reg_same dr _, s.setRegFlag_frame dr _⟩
  case ldi =>
    exact ⟨_, exec_ldi_read (State.memRead_plain h) (State.memRead_plain h') dr, s.setRegFlag_reg_same dr _,
      s.setRegFlag_frame dr _⟩

/-- Settles O37: `storeTo` in the state the pointer read left, which is `s` for a plain pointer; or a hold. -/
theorem stiStoresThroughItsPointer : Obligations.StiStoresThroughItsPointer := by
  refine ⟨fun _ => decode_sti, fun sr off s hm h => ?plain, fun sr off ea s u hm h => ?general,
    fun sr off s h => exec_sti_hold h sr⟩
  case plain =>
    exact ⟨_, exec_sti_read (State.memRead_plain h) sr, State.storeTo_cell_same hm sr _, s.storeTo_frame sr _⟩
  case general =>
    have hf := State.memRead_frame h
    exact ⟨_, exec_sti_read h sr, (State.storeTo_cell_same (State.memRead_wf hm h) sr ea).trans (hf.reg sr),
      u.storeTo_sameMemoryBut sr ea, hf.reg, hf.cond, hf.pc, u.storeTo_sameOutside sr ea⟩

/-- Settles O60: a file that cannot be read or parsed stops the loading wherever it stands; otherwise the images
are loaded in order. -/
theorem startupLoadsOrFails : Obligations.StartupLoadsOrFails := by
  refine ⟨fun p => rfl, fun p before after => ?unreadable, fun p file before after h => ?malformed,
    fun p files images hne h => ?started, rfl, rfl, rfl⟩
  case unreadable => exact boot_failed p (loadFiles_none (fun _ => rfl) before [])
  case malformed => exact boot_failed p (loadFiles_none (fun _ => by rw [loadFiles, h]) before [])
  case started => exact boot_started p (by simpa using hne) (loadFiles_images [] h)

end Sys2Proof.Machine

/-! ## The step (10_state.md R33 to R35, 20_memory.md R46, R47, 60_exceptions.md R163)

Each law of the steps goes through `step_cases`: the host's act or a held fetch changes what it says, and an
executed instruction obeys the law of `Effect`, in the state its fetch left. -/

namespace Sys2Proof.Machine

section
variable {s t u : State} {ir : Word}

/-! ### The cycle -/

theorem State.cycle_fetch (h : s.fetch = some (ir, u)) : s.cycle = exec (decode ir) u := by
  rw [State.cycle, h]

theorem State.cycle_hold (h : s.fetch = none) : s.cycle = .next s := by
  rw [State.cycle, h]

theorem step_plain (hr : s.run = .running) (hl : s.letRun) (hpc : s.pc ≠ s.params.kbsr) :
    step s = exec (decode (s.cell s.pc)) (s.acted.setPc (s.pc + 1)) :=
  (step_letRun hr hl).trans (State.cycle_fetch (State.fetch_plain (s := s.acted) hpc))

/-- Away from `P_KBSR` an instruction that holds leaves the state as the fetch found it (R34). -/
theorem step_hold (hr : s.run = .running) (hl : s.letRun) (hpc : s.pc ≠ s.params.kbsr)
    (h : exec (decode (s.cell s.pc)) (s.acted.setPc (s.pc + 1)) = .next (s.acted.setPc (s.pc + 1)).hold) :
    step s = .next s.acted := by
  rw [step_plain hr hl hpc, h]
  exact congrArg _ s.acted.hold_of_fetch

/-- A held IN has written its prompt, and is otherwise as the fetch found it. -/
theorem State.holdIn_of_fetch (s : State) :
    (s.setPc (s.pc + 1)).holdIn = { s with out := s.prompted.out, inPrompted := true } := by
  have hpc : s.pc + 1 - 1 = s.pc := congrArg State.pc s.hold_of_fetch
  unfold State.holdIn State.hold
  rw [State.setPc_pc, hpc]
  rfl

/-! ### What a fetch leaves -/

/-- A fetch is a read and the increment of PC. -/
theorem State.fetch_frame (h : s.fetch = some (ir, u)) : ∃ v, ReadFrame s v ∧ u = v.setPc (s.pc + 1) := by
  obtain ⟨v, hr, rfl⟩ := State.fetch_cases h
  have hf := State.memRead_frame hr
  exact ⟨v, hf, by rw [hf.pc]⟩

theorem State.fetch_input (h : s.fetch = some (ir, u)) : ∃ read, s.input = read ++ u.input := by
  obtain ⟨v, hr, rfl⟩ := State.fetch_cases h
  exact (State.memRead_input hr :)

theorem State.fetch_wf (hm : Memory.wf s.mem) (h : s.fetch = some (ir, u)) : Memory.wf u.mem := by
  obtain ⟨v, hr, rfl⟩ := State.fetch_cases h
  exact (State.memRead_wf hm hr :)

theorem State.fetch_status (hm : Memory.wf s.mem) (hd : s.params.kbsr ≠ s.params.kbdr)
    (hpc : s.pc = s.params.kbsr) (h : s.fetch = some (ir, u)) : ir = if s.keyAnswer then 0x8000 else 0x0000 := by
  obtain ⟨v, hr, rfl⟩ := State.fetch_cases h
  obtain ⟨hne, -, -⟩ | ⟨-, rfl, hp⟩ := State.memRead_cases hr
  · exact absurd hpc hne
  · rw [hpc, State.poll_status hm hd hp]

/-- No status word decodes to IN, so a fetched IN is a plain cell. -/
theorem State.fetch_inp (hm : Memory.wf s.mem) (hd : s.params.kbsr ≠ s.params.kbdr)
    (h : s.fetch = some (ir, u)) (hi : decode ir = .inp) : s.atIn ∧ u = s.setPc (s.pc + 1) := by
  by_cases hpc : s.pc = s.params.kbsr
  · rw [State.fetch_status hm hd hpc h] at hi
    cases hk : s.keyAnswer <;> rw [hk] at hi <;> exact absurd hi (by decide)
  · rw [State.fetch_plain hpc] at h
    obtain ⟨rfl, rfl⟩ := Prod.mk.inj (Option.some.inj h)
    exact ⟨⟨hpc, hi⟩, rfl⟩

/-! ### The invariant -/

theorem exec_inp_prompted (h : exec .inp s = .next t) (ht : t.inPrompted = true) : t = s.holdIn := by
  cases hi : s.input with
  | nil => exact Host.Outcome.next.inj (h.symm.trans (exec_inp_nil hi))
  | cons c cs =>
    obtain rfl := Host.Outcome.next.inj (h.symm.trans (exec_inp_cons hi))
    cases ht

/-- The prompt that waits after an instruction is that of the IN at PC: no other instruction writes one, and an
older one belonged to the word just fetched. -/
theorem State.Inv.of_exec (hs : s.Inv) (hf : s.fetch = some (ir, u)) (hx : exec (decode ir) u = .next t) : t.Inv := by
  obtain ⟨v, hv, hu⟩ := State.fetch_frame hf
  have huparams : u.params = s.params := by rw [hu]; exact hv.params
  have huprompt : u.inPrompted = s.inPrompted := by rw [hu]; exact hv.inPrompted
  have hparams : t.params = s.params := (exec_effect hx).params.trans huparams
  refine ⟨(exec_effect hx).wf (State.fetch_wf hs.memory hf), hparams ▸ hs.devices, fun ht => ?prompt⟩
  by_cases hi : decode ir = .inp
  · obtain ⟨hat, rfl⟩ := State.fetch_inp hs.memory hs.devices hf hi
    rw [hi] at hx
    obtain rfl := (exec_inp_prompted hx ht).trans s.holdIn_of_fetch
    exact hat
  · obtain hp | hcore := (exec_effect hx).inPrompted ht
    · have hat : s.atIn := hs.prompt (huprompt ▸ hp)
      rw [State.fetch_plain hat.1] at hf
      obtain ⟨rfl, -⟩ := Prod.mk.inj (Option.some.inj hf)
      exact absurd hat.2 hi
    · exact absurd (decode_eq_of_core hcore) hi

/-! ### The reserved words -/

theorem encode_decode_of_ignoredBits_eq_zero {w : Word} (h : ignoredBits (decode w) = 0) :
    encode (decode w) = w := by
  have hword := (decode_arm w).encode_readBits
  have hones : (~~~0 : Word) = BitVec.allOnes 16 := rfl
  rw [h, hones, BitVec.and_allOnes, BitVec.and_allOnes] at hword
  exact hword

/-- A decoded reserved instruction holds its whole word, which is its own encoding. -/
theorem decode_reserved {w x : Word} (h : decode w = .reserved1000 x ∨ decode w = .reserved1101 x) :
    x = w ∧ (w.extractLsb' 12 4 = 0b1000 ∨ w.extractLsb' 12 4 = 0b1101) := by
  have hfit := (wellFormed_iff.mp (decode_wellFormed w)).1
  have hword := encode_decode_of_ignoredBits_eq_zero (w := w)
  obtain h | h := h
  · rw [h] at hfit hword
    have hop : x.extractLsb' 12 4 = 0b1000 := beq_iff_eq.mp hfit
    obtain rfl := (encodeRES_self hop).symm.trans (hword rfl)
    exact ⟨rfl, .inl hop⟩
  · rw [h] at hfit hword
    have hop : x.extractLsb' 12 4 = 0b1101 := beq_iff_eq.mp hfit
    obtain rfl := (encodeRES_self hop).symm.trans (hword rfl)
    exact ⟨rfl, .inr hop⟩

end

/-! ### The obligations -/

/-- Settles O13: the host's acts and a held fetch leave memory, PC, the prompt and the parameters alone, and an
instruction keeps the invariant by `State.Inv.of_exec`. -/
theorem everyStepKeepsTheInvariant : Obligations.EveryStepKeepsTheInvariant := by
  intro s t hs h
  obtain ⟨-, ⟨-, rfl⟩ | ⟨b, -, rfl⟩ | ⟨-, ⟨-, rfl⟩ | ⟨ir, u, hf, hx⟩⟩⟩ := step_cases h
  · exact ⟨hs.memory, hs.devices, hs.prompt⟩
  · exact ⟨hs.memory, hs.devices, hs.prompt⟩
  · exact ⟨hs.memory, hs.devices, hs.prompt⟩
  · exact State.Inv.of_exec (s := s.acted) ⟨hs.memory, hs.devices, hs.prompt⟩ hf hx

/-- Settles O14: nothing is listed at reset and no prompt is written; loading keeps the canonical form. -/
theorem theInvariantHoldsAtTheStart : Obligations.TheInvariantHoldsAtTheStart := by
  refine ⟨⟨State.reset_wf, by decide, nofun⟩, fun p files s hd h => ?boot⟩
  have hs := boot_started_eq h
  exact ⟨boot_wf h, by rw [hs]; exact hd, by rw [hs]; exact nofun⟩

/-- Settles O15: only `Effect.params` is not immediate. -/
theorem noStepChangesAParameter : Obligations.NoStepChangesAParameter := by
  intro s t h
  obtain ⟨-, ⟨-, rfl⟩ | ⟨b, -, rfl⟩ | ⟨-, ⟨-, rfl⟩ | ⟨ir, u, hf, hx⟩⟩⟩ := step_cases h
  · rfl
  · rfl
  · rfl
  · obtain ⟨v, hv, rfl⟩ := State.fetch_frame hf
    exact (exec_effect hx).params.trans hv.params

/-- Settles O16: a fetch writes nothing, and an instruction only appends. -/
theorem theOutputOnlyGrows : Obligations.TheOutputOnlyGrows := by
  intro s t h
  obtain ⟨-, ⟨-, rfl⟩ | ⟨b, -, rfl⟩ | ⟨-, ⟨-, rfl⟩ | ⟨ir, u, hf, hx⟩⟩⟩ := step_cases h
  · exact ⟨[], (List.append_nil _).symm⟩
  · exact ⟨[], (List.append_nil _).symm⟩
  · exact ⟨[], (List.append_nil _).symm⟩
  · obtain ⟨v, hv, rfl⟩ := State.fetch_frame hf
    obtain ⟨es, hes⟩ := (exec_effect hx).out_append
    exact ⟨es, hes.trans (congrArg (· ++ es) hv.out)⟩

/-- Settles O17: the bytes a fetch reads stand before those its instruction reads. -/
theorem inputIsConsumedInOrder : Obligations.InputIsConsumedInOrder := by
  intro s t h
  obtain ⟨-, ⟨ha, rfl⟩ | ⟨b, ha, rfl⟩ | ⟨ha, hcycle⟩⟩ := step_cases h
  · exact ⟨fun b hb => (nomatch ha.symm.trans hb), fun _ => ⟨[], rfl⟩⟩
  · refine ⟨fun b' hb => ?_, fun hno => absurd ha (hno b)⟩
    obtain rfl := HostEvent.deliver.inj (ha.symm.trans hb)
    rfl
  · refine ⟨fun b hb => (nomatch (show s.nextAct = .proceed from ha).symm.trans hb), fun _ => ?_⟩
    obtain ⟨-, rfl⟩ | ⟨ir, u, hf, hx⟩ := hcycle
    · exact ⟨[], rfl⟩
    · obtain ⟨xs, hxs⟩ := State.fetch_input hf
      obtain ⟨ys, hys⟩ := (exec_effect hx).input_suffix
      exact ⟨xs ++ ys, by rw [List.append_assoc, ← hys]; exact hxs⟩

/-- Settles O18: a fetch leaves COND alone, and an instruction writes no flag but one of the three. -/
theorem aFlagOnceSetStaysSet : Obligations.AFlagOnceSetStaysSet := by
  intro s t hs h
  obtain ⟨-, ⟨-, rfl⟩ | ⟨b, -, rfl⟩ | ⟨-, ⟨-, rfl⟩ | ⟨ir, u, hf, hx⟩⟩⟩ := step_cases h
  · exact hs
  · exact hs
  · exact hs
  · obtain ⟨v, hv, rfl⟩ := State.fetch_frame hf
    exact (exec_effect hx).cond_ne_none fun h => hs (hv.cond.symm.trans h)

/-- Settles O12: `Effect.run`, in the names by which the decoder answers. -/
theorem aRunEndsOnlyByAbortHaltOrANamedFault : Obligations.ARunEndsOnlyByAbortHaltOrANamedFault := by
  intro s t h
  obtain ⟨hrun, ⟨ha, rfl⟩ | ⟨b, -, rfl⟩ | ⟨hl, ⟨-, rfl⟩ | ⟨ir, u, hf, hx⟩⟩⟩ := step_cases h
  · exact .inr (.inl ⟨rfl, ha⟩)
  · exact .inl hrun
  · exact .inl hrun
  · obtain ⟨v, hv, hu⟩ := State.fetch_frame hf
    have hurun : u.run = .running := by rw [hu]; exact hv.run.trans hrun
    have huparams : u.params = s.params := by rw [hu]; exact hv.params
    obtain hr | hend := (exec_effect hx).run
    · exact .inl (hr.trans hurun)
    refine .inr (.inr ⟨ir, u, hl, hf, ?_⟩)
    obtain ⟨hr, hc⟩ | ⟨ir', hr, hi⟩ | ⟨v, hr, hi, hv⟩ | ⟨hr, hc⟩ := hend
    · exact .inl ⟨hr, decode_eq_of_core hc⟩
    · obtain ⟨rfl, hop⟩ := decode_reserved hi
      exact .inr (.inl ⟨hr, hop⟩)
    · exact .inr (.inr (.inl ⟨v, hr, hi, hv⟩))
    · exact .inr (.inr (.inr ⟨huparams ▸ hr, hc.imp decode_eq_of_core decode_eq_of_core⟩))

/-- Settles O8: the fetch is plain. -/
theorem stepRunsTheDecodedInstruction : Obligations.StepRunsTheDecodedInstruction :=
  fun _ => step_plain

/-- Settles O10: `step` reads the run state first. -/
theorem anEndedRunHasNoStep : Obligations.AnEndedRunHasNoStep := by
  intro s
  refine ⟨fun h => ?_, fun e h => ?_, fun h => ?_, step_next⟩ <;> simp only [step, h]

/-- Settles O11: the laws of `step`, `nextAct` and `acted` at each act. -/
theorem theHostActsBetweenSteps : Obligations.TheHostActsBetweenSteps := by
  refine fun s e es b n => ⟨step_abort, step_deliver, step_letRun,
    fun h => ⟨State.nextAct_cons h, State.acted_cons h⟩, fun h ha => ⟨State.nextAct_runsOn h ha, ?runsOn⟩,
    fun h ha => ⟨State.nextAct_free h ha, ?free⟩⟩
  case runsOn =>
    rw [State.acted_nil h, ha]
    exact congrArg (fun a => { s with hostAfter := a }) ha.symm
  case free => rw [State.acted_nil h, ha]; rfl

end Sys2Proof.Machine

/-! ## Fetches at `P_KBSR`, held steps, and stores to the next instruction

One or two steps written out: `step_letRun` and the fetch say which instruction runs in which state, and the
instruction's own equation says where it ends. -/

namespace Sys2Proof.Machine

/-! ### A fetch at `P_KBSR` (R46, R40) -/

section
variable {s : State}

theorem State.fetch_of_memRead {u : State} {ir : Word} (h : s.memRead s.pc = some (ir, u)) :
    s.fetch = some (ir, u.setPc (u.pc + 1)) := by
  rw [State.fetch, h]

/-- The word 0x0000 is a BR that asks for no flag. -/
theorem exec_decode_zero (s : State) : exec (decode 0x0000) s = .next s := by
  rw [show decode 0x0000 = .br false false false 0x0000 by decide, exec_br]
  cases s.cond <;> rfl

theorem exec_decode_status (s : State) :
    exec (decode 0x8000) s = .next (s.raiseFault (.reservedOpcode 0x8000)) := by
  rw [decode_reserved1000 (by decide), exec_reserved1000]

variable (hr : s.run = .running) (hl : s.letRun) (hpc : s.pc = s.params.kbsr)
include hr hl hpc

theorem step_status_noKey (hm : Memory.wf s.mem) (hk : s.keyAnswer = false) :
    step s = .next (s.acted.polledNoKey.setPc (s.pc + 1)) := by
  have hread : s.acted.memRead s.acted.pc = some (0x0000, s.acted.polledNoKey) :=
    (congrArg s.acted.memRead hpc).trans (State.memRead_noKey (s := s.acted) hm hk)
  rw [step_letRun hr hl, State.cycle_fetch (State.fetch_of_memRead hread), exec_decode_zero,
    s.acted.polledNoKey_frame.pc]
  rfl

theorem step_status_key (hm : Memory.wf s.mem) (hd : s.params.kbsr ≠ s.params.kbdr) (hk : s.keyAnswer = true)
    {c : Byte} {cs : List Byte} (hi : s.input = c :: cs) :
    step s = .next (((s.acted.polledKey c cs).setPc (s.pc + 1)).raiseFault (.reservedOpcode 0x8000)) := by
  have hread : s.acted.memRead s.acted.pc = some (0x8000, s.acted.polledKey c cs) :=
    (congrArg s.acted.memRead hpc).trans (State.memRead_key (s := s.acted) hm hd hk hi)
  rw [step_letRun hr hl, State.cycle_fetch (State.fetch_of_memRead hread), exec_decode_status,
    (s.acted.polledKey_frame c cs).pc]
  rfl

end

theorem step_fetch_hold {s : State} (hr : s.run = .running) (hl : s.letRun) (h : s.acted.fetch = none) :
    step s = .next s.acted :=
  (step_letRun hr hl).trans (State.cycle_hold h)

/-! ### A store at a known address -/

theorem exec_st_at {s : State} {off ea : Word} (h : s.pcRel off = ea) (sr : Reg) :
    exec (.st sr off) s = .next (s.storeTo sr ea) := by
  rw [exec_st, h]

theorem exec_str_at {s : State} {base : Reg} {off ea : Word} (h : s.baseOff base off = ea) (sr : Reg) :
    exec (.str sr base off) s = .next (s.storeTo sr ea) := by
  rw [exec_str, h]

/-! ### A step at IN (43_trap.md R125) -/

/-- `s` after a step in which IN has waited: the host's act is used up and the prompt is written. -/
def State.waitedIn (s : State) : State := { s.acted with out := s.prompted.out, inPrompted := true }

section
variable (s : State)

@[simp] theorem State.waitedIn_regs : s.waitedIn.regs = s.regs := rfl
@[simp] theorem State.waitedIn_pc : s.waitedIn.pc = s.pc := rfl
@[simp] theorem State.waitedIn_out : s.waitedIn.out = s.prompted.out := rfl
@[simp] theorem State.waitedIn_input : s.waitedIn.input = s.input := rfl
@[simp] theorem State.waitedIn_inPrompted : s.waitedIn.inPrompted = true := rfl
@[simp] theorem State.waitedIn_run : s.waitedIn.run = s.run := rfl
@[simp] theorem State.waitedIn_hostEvents : s.waitedIn.hostEvents = s.hostEvents.tail := rfl
@[simp] theorem State.waitedIn_params : s.waitedIn.params = s.params := rfl

end

/-- A prompt that is written is not written again. -/
theorem State.prompted_out_of_inPrompted {s : State} (h : s.inPrompted = true) : s.prompted.out = s.out := by
  rw [State.prompted_out, if_pos h]

/-- Further waiting changes the host's acts alone. -/
theorem State.waitedIn_of_inPrompted {s : State} {e : HostEvent} {es : List HostEvent} (h : s.inPrompted = true)
    (he : s.hostEvents = e :: es) : s.waitedIn = { s with hostEvents := es } := by
  rw [State.waitedIn, State.acted_cons he, State.prompted_out_of_inPrompted h, ← h]

theorem State.waitedIn_atIn {s : State} (h : s.atIn) : s.waitedIn.atIn := h

theorem State.delivered_atIn {s : State} (h : s.atIn) (c : Byte) : (s.acted.hostDeliver c).atIn := h

section
variable {s : State} (hr : s.run = .running) (hl : s.letRun) (hat : s.atIn)
include hr hl hat

theorem step_inp_nil (hi : s.input = []) : step s = .next s.waitedIn := by
  rw [step_plain hr hl hat.1, hat.2, exec_inp_nil (s := s.acted.setPc (s.pc + 1)) hi]
  exact congrArg Host.Outcome.next s.acted.holdIn_of_fetch

theorem step_inp_cons {c : Byte} {cs : List Byte} (hi : s.input = c :: cs) :
    step s = .next ((s.acted.setPc (s.pc + 1)).trapRead cs (s.prompted.out ++ [OutEvent.byte c, .flush])
      (inWord s.params.inExt c) false) := by
  rw [step_plain hr hl hat.1, hat.2, exec_inp_cons (s := s.acted.setPc (s.pc + 1)) hi]
  rfl

end

/-! ### The obligations -/

/-- Settles O9: the fetch's poll in its three outcomes; the word fetched is 0x0000, 0x8000 or none. -/
theorem fetchAtKeyboardStatusPolls : Obligations.FetchAtKeyboardStatusPolls := by
  refine fun s hr hl hpc hm hd => ⟨fun hk => ?noKey, fun c cs hk hi => ?key, fun hk hi => ?hold⟩
  case noKey =>
    have hf := s.acted.polledNoKey_frame
    exact ⟨_, step_status_noKey hr hl hpc hm hk, rfl, hf.run.trans hr, State.polledNoKey_status (s := s.acted) hm,
      State.polledNoKey_sameMemoryBut (s := s.acted), s.acted.polledNoKey_input, s.acted.polledNoKey_drawMade,
      hf.regs, hf.cond, hf.out⟩
  case key =>
    have hf := s.acted.polledKey_frame c cs
    exact ⟨_, step_status_key hr hl hpc hm hd hk hi, rfl, rfl, State.polledKey_status (s := s.acted) hm hd c cs,
      State.polledKey_data (s := s.acted) hm c cs, fun a h h' => State.polledKey_other (s := s.acted) c cs h h',
      s.acted.polledKey_input c cs, s.acted.polledKey_drawMade c cs, hf.regs, hf.cond, hf.out⟩
  case hold => exact step_fetch_hold hr hl ((State.fetch_eq_none (s := s.acted)).mpr ⟨hpc, hk, hi⟩)

/-- Settles O49: each held instruction ends in the hold of the state its fetch left, which undoes the fetch. -/
theorem aHeldStepChangesAtMostAPrompt : Obligations.AHeldStepChangesAtMostAPrompt := by
  refine fun s hr hl => ⟨step_fetch_hold hr hl, fun hpc => ⟨fun hd hi => ?getc, fun dr off hd hn => ?ld,
    fun dr base off hd hn => ?ldr, fun dr off hd hn => ?ldiPointer, fun dr off ea v hd hp hn => ?ldiData,
    fun sr off hd hn => ?sti, fun hd hi => ?inp⟩⟩
  case getc => exact step_hold hr hl hpc (hd ▸ exec_getc_nil hi)
  case ld => exact step_hold hr hl hpc (hd ▸ exec_ld_hold hn dr)
  case ldr => exact step_hold hr hl hpc (hd ▸ exec_ldr_hold hn dr)
  case ldiPointer => exact step_hold hr hl hpc (hd ▸ exec_ldi_hold_pointer hn dr)
  case ldiData => exact step_hold hr hl hpc (hd ▸ exec_ldi_hold_data hp hn dr)
  case sti => exact step_hold hr hl hpc (hd ▸ exec_sti_hold hn sr)
  case inp =>
    rw [step_inp_nil hr hl ⟨hpc, hd⟩ hi, State.waitedIn, State.prompted_out_eq]

/-- Settles O31: the three stores end in a `storeTo` at the next instruction's address, whose fetch is plain. -/
theorem aStoreIsSeenByTheNextFetch : Obligations.AStoreIsSeenByTheNextFetch := by
  intro s sr hm hr hl hpc hpc' hstore
  obtain ⟨v, hv, hvm, hx⟩ : ∃ v, ReadFrame (s.acted.setPc (s.pc + 1)) v ∧ Memory.wf v.mem ∧
      exec (decode (s.cell s.pc)) (s.acted.setPc (s.pc + 1)) = .next (v.storeTo sr (s.pc + 1)) := by
    obtain ⟨off, hd, hea⟩ | ⟨base, off, hd, hea⟩ | ⟨off, v, hd, hp⟩ := hstore
    · exact ⟨_, ReadFrame.refl _, hm, hd ▸ exec_st_at hea sr⟩
    · exact ⟨_, ReadFrame.refl _, hm, hd ▸ exec_str_at hea sr⟩
    · exact ⟨v, State.memRead_frame hp, State.memRead_wf (s := s.acted.setPc (s.pc + 1)) hm hp,
        hd ▸ exec_sti_read hp sr⟩
  have htpc : (v.storeTo sr (s.pc + 1)).pc = s.pc + 1 := hv.pc
  have hplain : (v.storeTo sr (s.pc + 1)).pc ≠ (v.storeTo sr (s.pc + 1)).params.kbsr := by
    rw [htpc]
    exact fun h => hpc' (h.trans (congrArg Params.kbsr hv.params))
  have hfetch := State.fetch_plain hplain
  rw [htpc, State.storeTo_cell_same hvm, hv.reg] at hfetch
  refine ⟨_, _, (step_plain hr hl hpc).trans hx, htpc, hfetch, ?_⟩
  rw [State.setPc_pc, BitVec.add_assoc]
  rfl

/-- Settles O50: two waits, of which the second finds the prompt written; a delivery; and then IN's read. -/
theorem aWaitingInWritesItsPromptOnce : Obligations.AWaitingInWritesItsPromptOnce := by
  intro s c hr hpc hd hi hp he
  have hat : s.atIn := ⟨hpc, hd⟩
  have ht : step s = .next s.waitedIn := step_inp_nil hr (State.nextAct_cons he) hat hi
  have hu : step s.waitedIn = .next { s.waitedIn with hostEvents := [.deliver c, .proceed] } := by
    rw [← State.waitedIn_of_inPrompted s.waitedIn_inPrompted (congrArg List.tail he)]
    exact step_inp_nil hr (State.nextAct_cons (congrArg List.tail he)) (State.waitedIn_atIn hat) hi
  have hv : step { s.waitedIn with hostEvents := [.deliver c, .proceed] } =
      .next { s.waitedIn with hostEvents := [.proceed], input := [c] } := by
    have hinput : s.waitedIn.input ++ [c] = [c] := by rw [State.waitedIn_input, hi]; rfl
    rw [← hinput]
    exact step_deliver hr rfl
  have hw := step_inp_cons (s := { s.waitedIn with hostEvents := [.proceed], input := [c] }) hr rfl hat rfl
  have hout : s.waitedIn.out = s.out ++ s.params.inPrompt.map .byte ++ [.flush] := by
    rw [State.waitedIn_out, State.prompted_out, hp]
    rfl
  refine ⟨_, _, _, _, ht, hu, hv, hw, s.waitedIn_pc, hout, s.waitedIn_regs, rfl, ?echo, State.trapRead_pc ..,
    State.trapRead_inPrompted .., State.trapRead_input ..⟩
  case echo =>
    rw [State.trapRead_out, State.prompted_out_of_inPrompted rfl]
    exact (congrArg (· ++ [OutEvent.byte c, .flush]) hout).trans (List.append_assoc ..)

end Sys2Proof.Machine
